-- ==== Sys2Proof/Word.lean ====
section
/-! DEFINITION. The two word types of the core: u8 and u16 (spec/00_scope.md section 6, R3). -/

namespace Sys2Proof

/-- `u8`: a register, the status byte or a memory cell (R3). -/
abbrev Byte := BitVec 8

/-- `u16`: the program counter or an effective address (R3). -/
abbrev Word := BitVec 16

end Sys2Proof
end

