-- ==== Sys2Proof/Syntax.lean ====
section
/-! DEFINITION. The instructions: one constructor per mnemonic of spec/opcode_table.json, its operand form
(the row's addressing mode and operand bytes) being the argument, and one constructor for the 105 rows of
unassigned bytes (spec/30_encoding.md R61 to R65). -/

namespace Sys2Proof

/-- The eight addressing modes that name a memory operand (R84 to R86, R88 to R90, R92, R93). -/
inductive MemOperand where
  /-- `$hh` (R84). -/
  | zeroPage (zp : Byte)
  /-- `$hh,X` (R85). -/
  | zeroPageX (zp : Byte)
  /-- `$hh,Y` (R86). -/
  | zeroPageY (zp : Byte)
  /-- `$hhhh` (R88). -/
  | absolute (addr : Word)
  /-- `$hhhh,X` (R89). -/
  | absoluteX (base : Word)
  /-- `$hhhh,Y` (R90). -/
  | absoluteY (base : Word)
  /-- `($hh,X)` (R92). -/
  | indirectX (zp : Byte)
  /-- `($hh),Y` (R93). -/
  | indirectY (zp : Byte)
  deriving DecidableEq, Repr

/-- The operand of an instruction that only reads its operand: Immediate (R83) or memory. -/
inductive ReadOperand where
  | immediate (v : Byte)
  | mem (m : MemOperand)
  deriving DecidableEq, Repr

/-- The operand of a shift or rotate: Accumulator (R82) or memory. -/
inductive RmwOperand where
  | accumulator
  | mem (m : MemOperand)
  deriving DecidableEq, Repr

/-- The operand of JMP: Absolute (R88) or Indirect (R91). -/
inductive JumpOperand where
  | absolute (target : Word)
  | indirect (ptr : Word)
  deriving DecidableEq, Repr

/-- The thirteen addressing modes (R61). -/
inductive Mode where
  | implicit | accumulator | immediate | zeroPage | zeroPageX | zeroPageY | relative
  | absolute | absoluteX | absoluteY | indirect | indirectX | indirectY
  deriving DecidableEq, Repr

/-- An operand in any of the thirteen modes, as the resolver takes it (R80). -/
inductive Operand where
  | implicit
  | accumulator
  | immediate (v : Byte)
  | relative (off : Byte)
  | mem (m : MemOperand)
  | indirect (ptr : Word)
  deriving DecidableEq, Repr

/-- The instruction set (R63 to R66): 56 mnemonics and the unassigned bytes. -/
inductive Instr where
  -- arithmetic, logic, bit test, compare (spec/41_arith_logic.md)
  | adc (o : ReadOperand)
  | sbc (o : ReadOperand)
  | and (o : ReadOperand)
  | ora (o : ReadOperand)
  | eor (o : ReadOperand)
  | bit (o : MemOperand)
  | cmp (o : ReadOperand)
  | cpx (o : ReadOperand)
  | cpy (o : ReadOperand)
  -- shifts and rotates (spec/42_shift_rotate.md)
  | asl (o : RmwOperand)
  | lsr (o : RmwOperand)
  | rol (o : RmwOperand)
  | ror (o : RmwOperand)
  -- increments and decrements (spec/43_incdec.md)
  | inc (o : MemOperand)
  | dec (o : MemOperand)
  | inx
  | dex
  | iny
  | dey
  -- loads, stores, transfers (spec/44_load_store_transfer.md)
  | lda (o : ReadOperand)
  | ldx (o : ReadOperand)
  | ldy (o : ReadOperand)
  | sta (o : MemOperand)
  | stx (o : MemOperand)
  | sty (o : MemOperand)
  | tax
  | tay
  | tsx
  | txa
  | tya
  | txs
  -- flags and no-operations (spec/45_flags_nop.md)
  | clc
  | cld
  | cli
  | clv
  | sec
  | sed
  | sei
  | nop
  /-- One of the 105 unassigned opcode bytes, a one-byte NOP that keeps its byte (R65, R168; log entry 16). -/
  | nopUnassigned (op : Byte)
  -- the stack (spec/46_stack.md)
  | pha
  | php
  | pla
  | plp
  -- control transfer (spec/47_control_flow.md); `off` is the displacement byte of Relative (R87)
  | bcc (off : Byte)
  | bcs (off : Byte)
  | beq (off : Byte)
  | bne (off : Byte)
  | bmi (off : Byte)
  | bpl (off : Byte)
  | bvc (off : Byte)
  | bvs (off : Byte)
  | jmp (o : JumpOperand)
  | jsr (target : Word)
  | rts
  | rti
  -- break (spec/48_brk_run_loop.md)
  | brk
  deriving DecidableEq, Repr

/-- The mode of a memory operand. -/
def MemOperand.mode : MemOperand → Mode
  | .zeroPage _ => .zeroPage
  | .zeroPageX _ => .zeroPageX
  | .zeroPageY _ => .zeroPageY
  | .absolute _ => .absolute
  | .absoluteX _ => .absoluteX
  | .absoluteY _ => .absoluteY
  | .indirectX _ => .indirectX
  | .indirectY _ => .indirectY

/-- A read operand as the resolver takes it. -/
def ReadOperand.operand : ReadOperand → Operand
  | .immediate v => .immediate v
  | .mem m => .mem m

/-- A shift operand as the resolver takes it. -/
def RmwOperand.operand : RmwOperand → Operand
  | .accumulator => .accumulator
  | .mem m => .mem m

/-- A jump operand as the resolver takes it. -/
def JumpOperand.operand : JumpOperand → Operand
  | .absolute t => .mem (.absolute t)
  | .indirect p => .indirect p

/-- The mode of an operand (R61). -/
def Operand.mode : Operand → Mode
  | .implicit => .implicit
  | .accumulator => .accumulator
  | .immediate _ => .immediate
  | .relative _ => .relative
  | .mem m => m.mode
  | .indirect _ => .indirect

/-- The operand of an instruction, as the resolver takes it. -/
def Instr.operand : Instr → Operand
  | .adc o | .sbc o | .and o | .ora o | .eor o | .cmp o | .cpx o | .cpy o => o.operand
  | .lda o | .ldx o | .ldy o => o.operand
  | .bit m | .inc m | .dec m | .sta m | .stx m | .sty m => .mem m
  | .asl o | .lsr o | .rol o | .ror o => o.operand
  | .bcc d | .bcs d | .beq d | .bne d | .bmi d | .bpl d | .bvc d | .bvs d => .relative d
  | .jmp o => o.operand
  | .jsr t => .mem (.absolute t)
  | .inx | .dex | .iny | .dey => .implicit
  | .tax | .tay | .tsx | .txa | .tya | .txs => .implicit
  | .clc | .cld | .cli | .clv | .sec | .sed | .sei => .implicit
  | .nop | .nopUnassigned _ => .implicit
  | .pha | .php | .pla | .plp => .implicit
  | .rts | .rti | .brk => .implicit

/-- The addressing mode of an instruction: with the mnemonic, what the opcode byte selects (R60, R63). -/
def Instr.mode (i : Instr) : Mode := i.operand.mode

/-- The 56 mnemonics (R63, R64). -/
inductive Mnemonic where
  | adc | sbc | and | ora | eor | bit | cmp | cpx | cpy | asl | lsr | rol | ror | inc | dec | inx | dex | iny
  | dey | lda | ldx | ldy | sta | stx | sty | tax | tay | tsx | txa | tya | txs | clc | cld | cli | clv | sec
  | sed | sei | nop | pha | php | pla | plp | bcc | bcs | beq | bne | bmi | bpl | bvc | bvs | jmp | jsr | rts
  | rti | brk
  deriving DecidableEq, Repr

/-- The mnemonic of an instruction; an unassigned byte is a NOP (R65). -/
def Instr.op : Instr → Mnemonic
  | .adc _ => .adc | .sbc _ => .sbc | .and _ => .and | .ora _ => .ora | .eor _ => .eor | .bit _ => .bit
  | .cmp _ => .cmp | .cpx _ => .cpx | .cpy _ => .cpy | .asl _ => .asl | .lsr _ => .lsr | .rol _ => .rol
  | .ror _ => .ror | .inc _ => .inc | .dec _ => .dec | .inx => .inx | .dex => .dex | .iny => .iny
  | .dey => .dey | .lda _ => .lda | .ldx _ => .ldx | .ldy _ => .ldy | .sta _ => .sta | .stx _ => .stx
  | .sty _ => .sty | .tax => .tax | .tay => .tay | .tsx => .tsx | .txa => .txa | .tya => .tya | .txs => .txs
  | .clc => .clc | .cld => .cld | .cli => .cli | .clv => .clv | .sec => .sec | .sed => .sed | .sei => .sei
  | .nop => .nop | .nopUnassigned _ => .nop | .pha => .pha | .php => .php | .pla => .pla | .plp => .plp
  | .bcc _ => .bcc | .bcs _ => .bcs | .beq _ => .beq | .bne _ => .bne | .bmi _ => .bmi | .bpl _ => .bpl
  | .bvc _ => .bvc | .bvs _ => .bvs | .jmp _ => .jmp | .jsr _ => .jsr | .rts => .rts | .rti => .rti
  | .brk => .brk

/-- The spelling of spec/opcode_table.json. -/
def Mnemonic.name : Mnemonic → String
  | .adc => "ADC" | .sbc => "SBC" | .and => "AND" | .ora => "ORA" | .eor => "EOR" | .bit => "BIT"
  | .cmp => "CMP" | .cpx => "CPX" | .cpy => "CPY" | .asl => "ASL" | .lsr => "LSR" | .rol => "ROL"
  | .ror => "ROR" | .inc => "INC" | .dec => "DEC" | .inx => "INX" | .dex => "DEX" | .iny => "INY"
  | .dey => "DEY" | .lda => "LDA" | .ldx => "LDX" | .ldy => "LDY" | .sta => "STA" | .stx => "STX"
  | .sty => "STY" | .tax => "TAX" | .tay => "TAY" | .tsx => "TSX" | .txa => "TXA" | .tya => "TYA"
  | .txs => "TXS" | .clc => "CLC" | .cld => "CLD" | .cli => "CLI" | .clv => "CLV" | .sec => "SEC"
  | .sed => "SED" | .sei => "SEI" | .nop => "NOP" | .pha => "PHA" | .php => "PHP" | .pla => "PLA"
  | .plp => "PLP" | .bcc => "BCC" | .bcs => "BCS" | .beq => "BEQ" | .bne => "BNE" | .bmi => "BMI"
  | .bpl => "BPL" | .bvc => "BVC" | .bvs => "BVS" | .jmp => "JMP" | .jsr => "JSR" | .rts => "RTS"
  | .rti => "RTI" | .brk => "BRK"

/-- The mnemonic of an instruction, spelled. -/
def Instr.mnemonic (i : Instr) : String := i.op.name

end Sys2Proof
end

