-- ==== Sys2Proof/Decode.lean ====
section
/-! DEFINITION. The encoding tables (spec/30_encoding.md R61, R64, R65), the decoder, total on any three bytes,
its form over a byte list, which rejects by name, and after them the encoder. The decoder is written from the
16 × 16 map of R64, the encoder from its list of bytes per mnemonic, the unassigned bytes from R65. -/

namespace Sys2Proof

/-! ## The encoding tables -/

/-- The 105 unassigned opcode bytes, as R65 lists them, one high nibble a line. -/
def unassignedBytes : List Byte :=
  ([0x02#8, 0x03#8, 0x04#8, 0x07#8, 0x0B#8, 0x0C#8, 0x0F#8] ++
   [0x12#8, 0x13#8, 0x14#8, 0x17#8, 0x1A#8, 0x1B#8, 0x1C#8, 0x1F#8] ++
   [0x22#8, 0x23#8, 0x27#8, 0x2B#8, 0x2F#8] ++
   [0x32#8, 0x33#8, 0x34#8, 0x37#8, 0x3A#8, 0x3B#8, 0x3C#8, 0x3F#8] ++
   [0x42#8, 0x43#8, 0x44#8, 0x47#8, 0x4B#8, 0x4F#8] ++
   [0x52#8, 0x53#8, 0x54#8, 0x57#8, 0x5A#8, 0x5B#8, 0x5C#8, 0x5F#8] ++
   [0x62#8, 0x63#8, 0x64#8, 0x67#8, 0x6B#8, 0x6F#8] ++
   [0x72#8, 0x73#8, 0x74#8, 0x77#8, 0x7A#8, 0x7B#8, 0x7C#8, 0x7F#8] ++
   [0x80#8, 0x82#8, 0x83#8, 0x87#8, 0x89#8, 0x8B#8, 0x8F#8] ++
   [0x92#8, 0x93#8, 0x97#8, 0x9B#8, 0x9C#8, 0x9E#8, 0x9F#8] ++
   [0xA3#8, 0xA7#8, 0xAB#8, 0xAF#8] ++
   [0xB2#8, 0xB3#8, 0xB7#8, 0xBB#8, 0xBF#8] ++
   [0xC2#8, 0xC3#8, 0xC7#8, 0xCB#8, 0xCF#8] ++
   [0xD2#8, 0xD3#8, 0xD4#8, 0xD7#8, 0xDA#8, 0xDB#8, 0xDC#8, 0xDF#8] ++
   [0xE2#8, 0xE3#8, 0xE7#8, 0xEB#8, 0xEF#8] ++
   [0xF2#8, 0xF3#8, 0xF4#8, 0xF7#8, 0xFA#8, 0xFB#8, 0xFC#8, 0xFF#8])

/-- The eight modes of ADC, AND, CMP, EOR, LDA, ORA and SBC (R64). -/
def eightModes : List Mode :=
  [.immediate, .zeroPage, .zeroPageX, .absolute, .absoluteX, .absoluteY, .indirectX, .indirectY]

/-- The modes each mnemonic may take, by the decode table alone (R64, R97). -/
def modesOf : Instr → List Mode
  | .adc _ | .and _ | .cmp _ | .eor _ | .lda _ | .ora _ | .sbc _ => eightModes
  | .bit _ => [.zeroPage, .absolute]
  | .cpx _ | .cpy _ => [.immediate, .zeroPage, .absolute]
  | .asl _ | .lsr _ | .rol _ | .ror _ => [.accumulator, .zeroPage, .zeroPageX, .absolute, .absoluteX]
  | .inc _ | .dec _ => [.zeroPage, .zeroPageX, .absolute, .absoluteX]
  | .ldx _ => [.immediate, .zeroPage, .zeroPageY, .absolute, .absoluteY]
  | .ldy _ => [.immediate, .zeroPage, .zeroPageX, .absolute, .absoluteX]
  | .sta _ => [.zeroPage, .zeroPageX, .absolute, .absoluteX, .absoluteY, .indirectX, .indirectY]
  | .stx _ => [.zeroPage, .zeroPageY, .absolute]
  | .sty _ => [.zeroPage, .zeroPageX, .absolute]
  | .bcc _ | .bcs _ | .beq _ | .bne _ | .bmi _ | .bpl _ | .bvc _ | .bvs _ => [.relative]
  | .jmp _ => [.absolute, .indirect]
  | .jsr _ => [.absolute]
  | .inx | .dex | .iny | .dey => [.implicit]
  | .tax | .tay | .tsx | .txa | .tya | .txs => [.implicit]
  | .clc | .cld | .cli | .clv | .sec | .sed | .sei => [.implicit]
  | .nop | .nopUnassigned _ => [.implicit]
  | .pha | .php | .pla | .plp => [.implicit]
  | .rts | .rti | .brk => [.implicit]

/-- How many operand bytes follow the opcode byte (R61). -/
def operandBytes : Mode → Nat
  | .implicit => 0
  | .accumulator => 0
  | .immediate => 1
  | .zeroPage => 1
  | .zeroPageX => 1
  | .zeroPageY => 1
  | .relative => 1
  | .absolute => 2
  | .absoluteX => 2
  | .absoluteY => 2
  | .indirect => 2
  | .indirectX => 1
  | .indirectY => 1

/-- The length of an instruction in bytes: the mode alone fixes it (R60). -/
def instrLength (i : Instr) : Nat := 1 + operandBytes i.mode

/-- A little-endian word: `lo` is the byte at the lower address (R43, R62). -/
def wordOf (lo hi : Byte) : Word := hi ++ lo

/-- The low byte of a word. -/
def lowByte (w : Word) : Byte := w.extractLsb' 0 8

/-- The high byte of a word. -/
def highByte (w : Word) : Byte := w.extractLsb' 8 8

/-! ## The decoder

One function for each row of the map of R64 (the high nibble of the opcode byte); its argument `op` is the
opcode byte, `lo` and `hi` are the two bytes after it, which a short instruction does not look at. -/

/-- Row $0x of the map (R64); the other bytes of the row are unassigned (R65). -/
def decodeRow0 (op lo hi : Byte) : Instr :=
  match op.toNat % 16 with
  | 0x0 => .brk
  | 0x1 => .ora (.mem (.indirectX lo))
  | 0x5 => .ora (.mem (.zeroPage lo))
  | 0x6 => .asl (.mem (.zeroPage lo))
  | 0x8 => .php
  | 0x9 => .ora (.immediate lo)
  | 0xA => .asl .accumulator
  | 0xD => .ora (.mem (.absolute (wordOf lo hi)))
  | 0xE => .asl (.mem (.absolute (wordOf lo hi)))
  | _ => .nopUnassigned op

/-- Row $1x of the map (R64); the other bytes of the row are unassigned (R65). -/
def decodeRow1 (op lo hi : Byte) : Instr :=
  match op.toNat % 16 with
  | 0x0 => .bpl lo
  | 0x1 => .ora (.mem (.indirectY lo))
  | 0x5 => .ora (.mem (.zeroPageX lo))
  | 0x6 => .asl (.mem (.zeroPageX lo))
  | 0x8 => .clc
  | 0x9 => .ora (.mem (.absoluteY (wordOf lo hi)))
  | 0xD => .ora (.mem (.absoluteX (wordOf lo hi)))
  | 0xE => .asl (.mem (.absoluteX (wordOf lo hi)))
  | _ => .nopUnassigned op

/-- Row $2x of the map (R64); the other bytes of the row are unassigned (R65). -/
def decodeRow2 (op lo hi : Byte) : Instr :=
  match op.toNat % 16 with
  | 0x0 => .jsr (wordOf lo hi)
  | 0x1 => .and (.mem (.indirectX lo))
  | 0x4 => .bit (.zeroPage lo)
  | 0x5 => .and (.mem (.zeroPage lo))
  | 0x6 => .rol (.mem (.zeroPage lo))
  | 0x8 => .plp
  | 0x9 => .and (.immediate lo)
  | 0xA => .rol .accumulator
  | 0xC => .bit (.absolute (wordOf lo hi))
  | 0xD => .and (.mem (.absolute (wordOf lo hi)))
  | 0xE => .rol (.mem (.absolute (wordOf lo hi)))
  | _ => .nopUnassigned op

/-- Row $3x of the map (R64); the other bytes of the row are unassigned (R65). -/
def decodeRow3 (op lo hi : Byte) : Instr :=
  match op.toNat % 16 with
  | 0x0 => .bmi lo
  | 0x1 => .and (.mem (.indirectY lo))
  | 0x5 => .and (.mem (.zeroPageX lo))
  | 0x6 => .rol (.mem (.zeroPageX lo))
  | 0x8 => .sec
  | 0x9 => .and (.mem (.absoluteY (wordOf lo hi)))
  | 0xD => .and (.mem (.absoluteX (wordOf lo hi)))
  | 0xE => .rol (.mem (.absoluteX (wordOf lo hi)))
  | _ => .nopUnassigned op

/-- Row $4x of the map (R64); the other bytes of the row are unassigned (R65). -/
def decodeRow4 (op lo hi : Byte) : Instr :=
  match op.toNat % 16 with
  | 0x0 => .rti
  | 0x1 => .eor (.mem (.indirectX lo))
  | 0x5 => .eor (.mem (.zeroPage lo))
  | 0x6 => .lsr (.mem (.zeroPage lo))
  | 0x8 => .pha
  | 0x9 => .eor (.immediate lo)
  | 0xA => .lsr .accumulator
  | 0xC => .jmp (.absolute (wordOf lo hi))
  | 0xD => .eor (.mem (.absolute (wordOf lo hi)))
  | 0xE => .lsr (.mem (.absolute (wordOf lo hi)))
  | _ => .nopUnassigned op

/-- Row $5x of the map (R64); the other bytes of the row are unassigned (R65). -/
def decodeRow5 (op lo hi : Byte) : Instr :=
  match op.toNat % 16 with
  | 0x0 => .bvc lo
  | 0x1 => .eor (.mem (.indirectY lo))
  | 0x5 => .eor (.mem (.zeroPageX lo))
  | 0x6 => .lsr (.mem (.zeroPageX lo))
  | 0x8 => .cli
  | 0x9 => .eor (.mem (.absoluteY (wordOf lo hi)))
  | 0xD => .eor (.mem (.absoluteX (wordOf lo hi)))
  | 0xE => .lsr (.mem (.absoluteX (wordOf lo hi)))
  | _ => .nopUnassigned op

/-- Row $6x of the map (R64); the other bytes of the row are unassigned (R65). -/
def decodeRow6 (op lo hi : Byte) : Instr :=
  match op.toNat % 16 with
  | 0x0 => .rts
  | 0x1 => .adc (.mem (.indirectX lo))
  | 0x5 => .adc (.mem (.zeroPage lo))
  | 0x6 => .ror (.mem (.zeroPage lo))
  | 0x8 => .pla
  | 0x9 => .adc (.immediate lo)
  | 0xA => .ror .accumulator
  | 0xC => .jmp (.indirect (wordOf lo hi))
  | 0xD => .adc (.mem (.absolute (wordOf lo hi)))
  | 0xE => .ror (.mem (.absolute (wordOf lo hi)))
  | _ => .nopUnassigned op

/-- Row $7x of the map (R64); the other bytes of the row are unassigned (R65). -/
def decodeRow7 (op lo hi : Byte) : Instr :=
  match op.toNat % 16 with
  | 0x0 => .bvs lo
  | 0x1 => .adc (.mem (.indirectY lo))
  | 0x5 => .adc (.mem (.zeroPageX lo))
  | 0x6 => .ror (.mem (.zeroPageX lo))
  | 0x8 => .sei
  | 0x9 => .adc (.mem (.absoluteY (wordOf lo hi)))
  | 0xD => .adc (.mem (.absoluteX (wordOf lo hi)))
  | 0xE => .ror (.mem (.absoluteX (wordOf lo hi)))
  | _ => .nopUnassigned op

/-- Row $8x of the map (R64); the other bytes of the row are unassigned (R65). -/
def decodeRow8 (op lo hi : Byte) : Instr :=
  match op.toNat % 16 with
  | 0x1 => .sta (.indirectX lo)
  | 0x4 => .sty (.zeroPage lo)
  | 0x5 => .sta (.zeroPage lo)
  | 0x6 => .stx (.zeroPage lo)
  | 0x8 => .dey
  | 0xA => .txa
  | 0xC => .sty (.absolute (wordOf lo hi))
  | 0xD => .sta (.absolute (wordOf lo hi))
  | 0xE => .stx (.absolute (wordOf lo hi))
  | _ => .nopUnassigned op

/-- Row $9x of the map (R64); the other bytes of the row are unassigned (R65). -/
def decodeRow9 (op lo hi : Byte) : Instr :=
  match op.toNat % 16 with
  | 0x0 => .bcc lo
  | 0x1 => .sta (.indirectY lo)
  | 0x4 => .sty (.zeroPageX lo)
  | 0x5 => .sta (.zeroPageX lo)
  | 0x6 => .stx (.zeroPageY lo)
  | 0x8 => .tya
  | 0x9 => .sta (.absoluteY (wordOf lo hi))
  | 0xA => .txs
  | 0xD => .sta (.absoluteX (wordOf lo hi))
  | _ => .nopUnassigned op

/-- Row $Ax of the map (R64); the other bytes of the row are unassigned (R65). -/
def decodeRowA (op lo hi : Byte) : Instr :=
  match op.toNat % 16 with
  | 0x0 => .ldy (.immediate lo)
  | 0x1 => .lda (.mem (.indirectX lo))
  | 0x2 => .ldx (.immediate lo)
  | 0x4 => .ldy (.mem (.zeroPage lo))
  | 0x5 => .lda (.mem (.zeroPage lo))
  | 0x6 => .ldx (.mem (.zeroPage lo))
  | 0x8 => .tay
  | 0x9 => .lda (.immediate lo)
  | 0xA => .tax
  | 0xC => .ldy (.mem (.absolute (wordOf lo hi)))
  | 0xD => .lda (.mem (.absolute (wordOf lo hi)))
  | 0xE => .ldx (.mem (.absolute (wordOf lo hi)))
  | _ => .nopUnassigned op

/-- Row $Bx of the map (R64); the other bytes of the row are unassigned (R65). -/
def decodeRowB (op lo hi : Byte) : Instr :=
  match op.toNat % 16 with
  | 0x0 => .bcs lo
  | 0x1 => .lda (.mem (.indirectY lo))
  | 0x4 => .ldy (.mem (.zeroPageX lo))
  | 0x5 => .lda (.mem (.zeroPageX lo))
  | 0x6 => .ldx (.mem (.zeroPageY lo))
  | 0x8 => .clv
  | 0x9 => .lda (.mem (.absoluteY (wordOf lo hi)))
  | 0xA => .tsx
  | 0xC => .ldy (.mem (.absoluteX (wordOf lo hi)))
  | 0xD => .lda (.mem (.absoluteX (wordOf lo hi)))
  | 0xE => .ldx (.mem (.absoluteY (wordOf lo hi)))
  | _ => .nopUnassigned op

/-- Row $Cx of the map (R64); the other bytes of the row are unassigned (R65). -/
def decodeRowC (op lo hi : Byte) : Instr :=
  match op.toNat % 16 with
  | 0x0 => .cpy (.immediate lo)
  | 0x1 => .cmp (.mem (.indirectX lo))
  | 0x4 => .cpy (.mem (.zeroPage lo))
  | 0x5 => .cmp (.mem (.zeroPage lo))
  | 0x6 => .dec (.zeroPage lo)
  | 0x8 => .iny
  | 0x9 => .cmp (.immediate lo)
  | 0xA => .dex
  | 0xC => .cpy (.mem (.absolute (wordOf lo hi)))
  | 0xD => .cmp (.mem (.absolute (wordOf lo hi)))
  | 0xE => .dec (.absolute (wordOf lo hi))
  | _ => .nopUnassigned op

/-- Row $Dx of the map (R64); the other bytes of the row are unassigned (R65). -/
def decodeRowD (op lo hi : Byte) : Instr :=
  match op.toNat % 16 with
  | 0x0 => .bne lo
  | 0x1 => .cmp (.mem (.indirectY lo))
  | 0x5 => .cmp (.mem (.zeroPageX lo))
  | 0x6 => .dec (.zeroPageX lo)
  | 0x8 => .cld
  | 0x9 => .cmp (.mem (.absoluteY (wordOf lo hi)))
  | 0xD => .cmp (.mem (.absoluteX (wordOf lo hi)))
  | 0xE => .dec (.absoluteX (wordOf lo hi))
  | _ => .nopUnassigned op

/-- Row $Ex of the map (R64); the other bytes of the row are unassigned (R65). -/
def decodeRowE (op lo hi : Byte) : Instr :=
  match op.toNat % 16 with
  | 0x0 => .cpx (.immediate lo)
  | 0x1 => .sbc (.mem (.indirectX lo))
  | 0x4 => .cpx (.mem (.zeroPage lo))
  | 0x5 => .sbc (.mem (.zeroPage lo))
  | 0x6 => .inc (.zeroPage lo)
  | 0x8 => .inx
  | 0x9 => .sbc (.immediate lo)
  | 0xA => .nop
  | 0xC => .cpx (.mem (.absolute (wordOf lo hi)))
  | 0xD => .sbc (.mem (.absolute (wordOf lo hi)))
  | 0xE => .inc (.absolute (wordOf lo hi))
  | _ => .nopUnassigned op

/-- Row $Fx of the map (R64); the other bytes of the row are unassigned (R65). -/
def decodeRowF (op lo hi : Byte) : Instr :=
  match op.toNat % 16 with
  | 0x0 => .beq lo
  | 0x1 => .sbc (.mem (.indirectY lo))
  | 0x5 => .sbc (.mem (.zeroPageX lo))
  | 0x6 => .inc (.zeroPageX lo)
  | 0x8 => .sed
  | 0x9 => .sbc (.mem (.absoluteY (wordOf lo hi)))
  | 0xD => .sbc (.mem (.absoluteX (wordOf lo hi)))
  | 0xE => .inc (.absoluteX (wordOf lo hi))
  | _ => .nopUnassigned op

/-- `Decode` (R63): the instruction whose opcode byte is `op` and whose next two bytes are `lo` and `hi`. Total:
every byte is a legal opcode. Which row of the map applies is the byte's high nibble. -/
def decode (op lo hi : Byte) : Instr :=
  match op.toNat / 16 with
  | 0x0 => decodeRow0 op lo hi
  | 0x1 => decodeRow1 op lo hi
  | 0x2 => decodeRow2 op lo hi
  | 0x3 => decodeRow3 op lo hi
  | 0x4 => decodeRow4 op lo hi
  | 0x5 => decodeRow5 op lo hi
  | 0x6 => decodeRow6 op lo hi
  | 0x7 => decodeRow7 op lo hi
  | 0x8 => decodeRow8 op lo hi
  | 0x9 => decodeRow9 op lo hi
  | 0xA => decodeRowA op lo hi
  | 0xB => decodeRowB op lo hi
  | 0xC => decodeRowC op lo hi
  | 0xD => decodeRowD op lo hi
  | 0xE => decodeRowE op lo hi
  | _ => decodeRowF op lo hi

/-- Why a list of bytes is no instruction: the core itself never meets either case, since a fetch reads memory. -/
inductive DecodeError where
  /-- The list is empty. -/
  | noOpcode
  /-- The list ends before the operand bytes of the opcode `op`. -/
  | truncated (op : Byte)
  deriving DecidableEq, Repr

/-- Decode the first instruction of a list of bytes and give the rest of the list. -/
def decodeBytes : List Byte → Except DecodeError (Instr × List Byte)
  | [] => .error .noOpcode
  | op :: rest =>
    let i := decode op (rest.getD 0 0) (rest.getD 1 0)
    if rest.length < operandBytes i.mode then .error (.truncated op) else .ok (i, rest.drop (operandBytes i.mode))

/-- Byte `k` of an instruction whose first `nbits` bits are those of `w` and whose further bits are 0, bit 0
being the least significant bit of the first byte. -/
def tableByte (nbits w k : Nat) : Byte := BitVec.ofNat 8 (w % 2 ^ nbits / 256 ^ k)

/-- What the decoder reads from a word numbered as spec/opcode_table.json numbers it. -/
def decodeTableWord (nbits w : Nat) : Option Instr :=
  some (decode (tableByte nbits w 0) (tableByte nbits w 1) (tableByte nbits w 2))

/-! ## The encoder -/

/-- The operand bytes of a memory operand, low byte first (R61, R62). -/
def memOperandBytes : MemOperand → List Byte
  | .zeroPage zp | .zeroPageX zp | .zeroPageY zp | .indirectX zp | .indirectY zp => [zp]
  | .absolute a | .absoluteX a | .absoluteY a => [lowByte a, highByte a]

/-- The bytes after the opcode byte (R61, R62). -/
def operandList : Operand → List Byte
  | .implicit | .accumulator => []
  | .immediate v => [v]
  | .relative off => [off]
  | .mem m => memOperandBytes m
  | .indirect p => [lowByte p, highByte p]

/-- The byte that stands beside a mode in a row of R64's list; none where the mnemonic has no such mode. -/
def byteFor (row : List (Mode × Byte)) (m : Mode) : Option Byte := (row.find? (fun e => e.1 == m)).map (·.2)

/-- The row of R64's list for an instruction's mnemonic: its opcode bytes with their modes. The row of an
unassigned byte is that byte (R65). -/
def opcodeRow : Instr → List (Mode × Byte)
  | .adc _ =>
    [(.immediate, 0x69#8), (.zeroPage, 0x65#8), (.zeroPageX, 0x75#8), (.absolute, 0x6D#8),
    (.absoluteX, 0x7D#8), (.absoluteY, 0x79#8), (.indirectX, 0x61#8), (.indirectY, 0x71#8)]
  | .sbc _ =>
    [(.immediate, 0xE9#8), (.zeroPage, 0xE5#8), (.zeroPageX, 0xF5#8), (.absolute, 0xED#8),
    (.absoluteX, 0xFD#8), (.absoluteY, 0xF9#8), (.indirectX, 0xE1#8), (.indirectY, 0xF1#8)]
  | .and _ =>
    [(.immediate, 0x29#8), (.zeroPage, 0x25#8), (.zeroPageX, 0x35#8), (.absolute, 0x2D#8),
    (.absoluteX, 0x3D#8), (.absoluteY, 0x39#8), (.indirectX, 0x21#8), (.indirectY, 0x31#8)]
  | .ora _ =>
    [(.immediate, 0x09#8), (.zeroPage, 0x05#8), (.zeroPageX, 0x15#8), (.absolute, 0x0D#8),
    (.absoluteX, 0x1D#8), (.absoluteY, 0x19#8), (.indirectX, 0x01#8), (.indirectY, 0x11#8)]
  | .eor _ =>
    [(.immediate, 0x49#8), (.zeroPage, 0x45#8), (.zeroPageX, 0x55#8), (.absolute, 0x4D#8),
    (.absoluteX, 0x5D#8), (.absoluteY, 0x59#8), (.indirectX, 0x41#8), (.indirectY, 0x51#8)]
  | .bit _ => [(.zeroPage, 0x24#8), (.absolute, 0x2C#8)]
  | .cmp _ =>
    [(.immediate, 0xC9#8), (.zeroPage, 0xC5#8), (.zeroPageX, 0xD5#8), (.absolute, 0xCD#8),
    (.absoluteX, 0xDD#8), (.absoluteY, 0xD9#8), (.indirectX, 0xC1#8), (.indirectY, 0xD1#8)]
  | .cpx _ => [(.immediate, 0xE0#8), (.zeroPage, 0xE4#8), (.absolute, 0xEC#8)]
  | .cpy _ => [(.immediate, 0xC0#8), (.zeroPage, 0xC4#8), (.absolute, 0xCC#8)]
  | .asl _ =>
    [(.accumulator, 0x0A#8), (.zeroPage, 0x06#8), (.zeroPageX, 0x16#8),
    (.absolute, 0x0E#8), (.absoluteX, 0x1E#8)]
  | .lsr _ =>
    [(.accumulator, 0x4A#8), (.zeroPage, 0x46#8), (.zeroPageX, 0x56#8),
    (.absolute, 0x4E#8), (.absoluteX, 0x5E#8)]
  | .rol _ =>
    [(.accumulator, 0x2A#8), (.zeroPage, 0x26#8), (.zeroPageX, 0x36#8),
    (.absolute, 0x2E#8), (.absoluteX, 0x3E#8)]
  | .ror _ =>
    [(.accumulator, 0x6A#8), (.zeroPage, 0x66#8), (.zeroPageX, 0x76#8),
    (.absolute, 0x6E#8), (.absoluteX, 0x7E#8)]
  | .inc _ => [(.zeroPage, 0xE6#8), (.zeroPageX, 0xF6#8), (.absolute, 0xEE#8), (.absoluteX, 0xFE#8)]
  | .dec _ => [(.zeroPage, 0xC6#8), (.zeroPageX, 0xD6#8), (.absolute, 0xCE#8), (.absoluteX, 0xDE#8)]
  | .inx => [(.implicit, 0xE8#8)]
  | .dex => [(.implicit, 0xCA#8)]
  | .iny => [(.implicit, 0xC8#8)]
  | .dey => [(.implicit, 0x88#8)]
  | .lda _ =>
    [(.immediate, 0xA9#8), (.zeroPage, 0xA5#8), (.zeroPageX, 0xB5#8), (.absolute, 0xAD#8),
    (.absoluteX, 0xBD#8), (.absoluteY, 0xB9#8), (.indirectX, 0xA1#8), (.indirectY, 0xB1#8)]
  | .ldx _ =>
    [(.immediate, 0xA2#8), (.zeroPage, 0xA6#8), (.zeroPageY, 0xB6#8),
    (.absolute, 0xAE#8), (.absoluteY, 0xBE#8)]
  | .ldy _ =>
    [(.immediate, 0xA0#8), (.zeroPage, 0xA4#8), (.zeroPageX, 0xB4#8),
    (.absolute, 0xAC#8), (.absoluteX, 0xBC#8)]
  | .sta _ =>
    [(.zeroPage, 0x85#8), (.zeroPageX, 0x95#8), (.absolute, 0x8D#8), (.absoluteX, 0x9D#8),
    (.absoluteY, 0x99#8), (.indirectX, 0x81#8), (.indirectY, 0x91#8)]
  | .stx _ => [(.zeroPage, 0x86#8), (.zeroPageY, 0x96#8), (.absolute, 0x8E#8)]
  | .sty _ => [(.zeroPage, 0x84#8), (.zeroPageX, 0x94#8), (.absolute, 0x8C#8)]
  | .tax => [(.implicit, 0xAA#8)]
  | .tay => [(.implicit, 0xA8#8)]
  | .tsx => [(.implicit, 0xBA#8)]
  | .txa => [(.implicit, 0x8A#8)]
  | .tya => [(.implicit, 0x98#8)]
  | .txs => [(.implicit, 0x9A#8)]
  | .clc => [(.implicit, 0x18#8)]
  | .cld => [(.implicit, 0xD8#8)]
  | .cli => [(.implicit, 0x58#8)]
  | .clv => [(.implicit, 0xB8#8)]
  | .sec => [(.implicit, 0x38#8)]
  | .sed => [(.implicit, 0xF8#8)]
  | .sei => [(.implicit, 0x78#8)]
  | .nop => [(.implicit, 0xEA#8)]
  | .nopUnassigned op => if unassignedBytes.contains op then [(.implicit, op)] else []
  | .pha => [(.implicit, 0x48#8)]
  | .php => [(.implicit, 0x08#8)]
  | .pla => [(.implicit, 0x68#8)]
  | .plp => [(.implicit, 0x28#8)]
  | .bcc _ => [(.relative, 0x90#8)]
  | .bcs _ => [(.relative, 0xB0#8)]
  | .beq _ => [(.relative, 0xF0#8)]
  | .bne _ => [(.relative, 0xD0#8)]
  | .bmi _ => [(.relative, 0x30#8)]
  | .bpl _ => [(.relative, 0x10#8)]
  | .bvc _ => [(.relative, 0x50#8)]
  | .bvs _ => [(.relative, 0x70#8)]
  | .jmp _ => [(.absolute, 0x4C#8), (.indirect, 0x6C#8)]
  | .jsr _ => [(.absolute, 0x20#8)]
  | .rts => [(.implicit, 0x60#8)]
  | .rti => [(.implicit, 0x40#8)]
  | .brk => [(.implicit, 0x00#8)]

/-- The bytes of an instruction, in the order of their addresses (R60, R61); none for a term of Instr that the
decode table does not hold. -/
def encode (i : Instr) : Option (List Byte) :=
  (byteFor (opcodeRow i) i.mode).map (fun op => op :: operandList i.operand)

end Sys2Proof
end

