-- ==== Sys2Proof/Config.lean ====
section
/-! DEFINITION. What is fixed for the machine (spec/00_scope.md R3) and INIT_MEM, the parameter of R4 that
concerns memory. The two cycle parameters of R4, FETCH_COST and OWN_COST, are arguments of the meanings (Machine/Cycles.lean). -/

namespace Sys2Proof.Config

/-- The fixed entry point after reset (R3, R243). -/
def entryPoint : Word := 0x0600#16

/-- The first address of the stack page $0100 to $01FF (R3, R46). -/
def stackPage : Word := 0x0100#16

/-- The stack pointer after reset (R241). -/
def resetSp : Byte := 0xFF#8

/-- What reset adds to the cycle tally (R241). -/
def resetCycles : Nat := 8

/-- The number of memory cells (R3, R40). -/
def memorySize : Nat := 65536

/-- INIT_MEM: what a cell reads as that nothing has written. DESIGN CHOICE, unsafe (log entry 1): the spec's
reference condition is "all cells $00 except those the host wrote" (R54, D10). -/
def initByte : Byte := 0x00#8

end Sys2Proof.Config
end

