-- ==== Sys2Proof/Machine/State.lean ====
section
/-! DEFINITION. The state of the machine: the seven registers of spec/10_state.md R10 and memory, as plain data;
the names of the flags; the reasons a step can stop (the spec has none, R220); the state after reset. -/

namespace Sys2Proof.Machine

/-- Memory (R40, R41): the cells whose content differs from `Config.initByte`, addresses strictly rising. -/
abbrev Memory := List Host.Cell

/-- Cells in strictly rising address order, every address inside the space and at least `from_`, none equal to
what an unlisted address reads as. -/
def cellsFrom : Nat → Memory → Bool
  | _, [] => true
  | from_, (k, v) :: rest =>
    decide (from_ ≤ k) && decide (k < Config.memorySize) && (v != Config.initByte) && cellsFrom (k + 1) rest

/-- The canonical form of memory: equal memories are equal data. -/
def Memory.wf (m : Memory) : Bool := cellsFrom 0 m

/-- The seven flags of the status byte (R14). Bit 5 is no flag. -/
inductive Flag where
  | c | z | i | d | b | v | n
  deriving DecidableEq, Repr

/-- The state of the machine (R10). -/
structure State where
  /-- Program counter: the address of the next byte to fetch (R11). -/
  pc : Word
  /-- Stack pointer: the stack location is $0100 + SP (R12). -/
  sp : Byte
  /-- Accumulator (R13). -/
  a : Byte
  /-- Index register X (R13). -/
  x : Byte
  /-- Index register Y (R13). -/
  y : Byte
  /-- The packed status byte N V − B D I Z C, bit 7 down to bit 0 (R14). -/
  p : Byte
  /-- The cycle tally (R25), unbounded as R25 and D11 allow (log entry 4). -/
  cycles : Nat
  /-- Memory, carried as state beside the registers (R10, D16). -/
  mem : Memory
  deriving DecidableEq, Repr

/-- The reasons a step stops with a fault: none. "The core raises no synchronous exception of any kind" and the
step function is total (R220), so nobody raises one; safe and exact. -/
inductive Fault where
  deriving DecidableEq, Repr

/-- The reasons a step is refused. -/
inductive Refusal where
  /-- Raised by `exec` alone, for an instruction that has no meaning in the model yet; safe. No arm raises it:
  every instruction has its meaning. -/
  | notModelled (mnemonic : String)
  deriving DecidableEq, Repr

/-- The state as it is created, before the reset that construction performs (R240): all zero. -/
def State.created : State :=
  { pc := 0, sp := 0, a := 0, x := 0, y := 0, p := 0, cycles := 0, mem := [] }

/-- The first state anyone sees, after construction has performed reset (R240, R241, R29). -/
def State.reset : State :=
  { pc := Config.entryPoint, sp := Config.resetSp, a := 0, x := 0, y := 0, p := 0,
    cycles := Config.resetCycles, mem := [] }

end Sys2Proof.Machine
end

