-- ==== Sys2Proof/Machine/Ops.lean ====
section
/-! DEFINITION. The named operations over memory, stack and registers, the fetch, and the host's operations
between runs. The core takes no exception (spec/60_exceptions.md R220, R223), so there is no operation that
enters one; the return instruction RTI is built from `pop` (Machine/Control.lean). -/

namespace Sys2Proof.Machine

/-! ## Memory (spec/20_memory.md) -/

/-- The byte of the first cell listed at address `k`. -/
def lookupCell : Memory → Nat → Byte
  | [], _ => Config.initByte
  | (j, v) :: rest, k => if j = k then v else lookupCell rest k

/-- Put a cell where its address belongs. -/
def insertCell (k : Nat) (v : Byte) : Memory → Memory
  | [] => [(k, v)]
  | (j, w) :: rest => if k < j then (k, v) :: (j, w) :: rest else (j, w) :: insertCell k v rest

/-- Take every cell at address `k` out. -/
def eraseCell (k : Nat) : Memory → Memory
  | [] => []
  | (j, w) :: rest => if j = k then eraseCell k rest else (j, w) :: eraseCell k rest

/-- `MemRead(addr, 1)`: total, no side effect (R41). -/
def memRead (m : Memory) (addr : Word) : Byte := lookupCell m addr.toNat

/-- `MemWrite(addr, 1, v)`: changes the cell at `addr` and no other (R41). -/
def memWrite (m : Memory) (addr : Word) (v : Byte) : Memory :=
  if v = Config.initByte then eraseCell addr.toNat m else insertCell addr.toNat v (eraseCell addr.toNat m)

/-- A byte read of the machine's memory (R41). -/
def readByte (s : State) (addr : Word) : Byte := memRead s.mem addr

/-- A byte write of the machine's memory (R41). -/
def writeByte (s : State) (addr : Word) (v : Byte) : State := { s with mem := memWrite s.mem addr v }

/-- `zext_16` (00_scope.md section 6): a zero-page byte as an address (R62). -/
def zext16 (b : Byte) : Word := b.setWidth 16

/-- `sext_16` (00_scope.md section 6): a displacement byte as a signed word (R62). -/
def sext16 (b : Byte) : Word := b.signExtend 16

/-- `Read16` (R47): a little-endian word; the high byte comes from the next address with 16-bit wrap. -/
def read16 (s : State) (addr : Word) : Word := wordOf (readByte s addr) (readByte s (addr + 1))

/-- `Read16ZP` (R47): a little-endian word whose two bytes both lie in the zero page (D7, log entry 10). -/
def read16ZP (s : State) (z : Byte) : Word := wordOf (readByte s (zext16 z)) (readByte s (zext16 (z + 1)))

/-! ## The stack (spec/46_stack.md) -/

/-- The stack location `$0100 + SP` (R12, R175). -/
def stackAddr (sp : Byte) : Word := Config.stackPage + zext16 sp

/-- `Push` (R175): write at `$0100 + SP`, then SP minus 1 with 8-bit wrap. -/
def push (v : Byte) (s : State) : State := { writeByte s (stackAddr s.sp) v with sp := s.sp - 1 }

/-- The byte that `Pop` returns (R176): that at `$0100 + (SP + 1)`. -/
def popByte (s : State) : Byte := readByte s (stackAddr (s.sp + 1))

/-- What `Pop` does to the state (R176): SP plus 1 with 8-bit wrap; the cell stays as it is. -/
def popState (s : State) : State := { s with sp := s.sp + 1 }

/-! ## Fetch (spec/30_encoding.md R67, R68) -/

/-- The instruction whose opcode byte lies at PC, all its bytes read before it does anything (R52, R67). The two
bytes after the opcode byte are always read; a short instruction does not look at them, and a read has no side
effect (log entry 6). -/
def fetchInstr (s : State) : Instr :=
  decode (readByte s s.pc) (readByte s (s.pc + 1)) (readByte s (s.pc + 2))

/-! ## The host's operations between runs (spec/48_brk_run_loop.md R216; log entry 15) -/

/-- `reset()` of the core (R241, R242): every register set, 8 added to `cycles`, memory untouched. -/
def resetCore (s : State) : State :=
  { s with
    pc := Config.entryPoint, sp := Config.resetSp, a := 0, x := 0, y := 0, p := 0,
    cycles := s.cycles + Config.resetCycles }

/-- `Memory::reset()` (R53): zeroes the entire store. -/
def memReset (s : State) : State := { s with mem := [] }

/-- The host sets the program counter (R28, R243). -/
def setPc (s : State) (pc : Word) : State := { s with pc := pc }

end Sys2Proof.Machine
end

