-- ==== Sys2Proof/Machine/Operands.lean ====
section
/-! DEFINITION. The addressing-mode resolver (spec/40_addressing.md): the effective address and operand value of
each of the 13 modes, and the page-cross penalty. -/

namespace Sys2Proof.Machine

/-- The effective address of a memory operand (R84 to R86, R88 to R90, R92, R93). Zero-page sums wrap inside the
zero page, 16-bit sums mod 65536. -/
def memAddress : MemOperand → State → Word
  | .zeroPage zp, _ => zext16 zp
  | .zeroPageX zp, s => zext16 (zp + s.x)
  | .zeroPageY zp, s => zext16 (zp + s.y)
  | .absolute addr, _ => addr
  | .absoluteX base, s => base + zext16 s.x
  | .absoluteY base, s => base + zext16 s.y
  | .indirectX zp, s => read16ZP s (zp + s.x)
  | .indirectY zp, s => read16ZP s zp + zext16 s.y

/-- `mem[ea]`, the operand value of a memory operand (R80). -/
def memValue (m : MemOperand) (s : State) : Byte := readByte s (memAddress m s)

/-- The operand value M of a read instruction (R83, R84 to R93). -/
def readValue : ReadOperand → State → Byte
  | .immediate v, _ => v
  | .mem m, s => memValue m s

/-- The operand value M of a shift or rotate (R120). -/
def rmwValue : RmwOperand → State → Byte
  | .accumulator, s => s.a
  | .mem m, s => memValue m s

/-- The effective address of JMP (R199): the operand word, or the word it points at (R91; D6, log entry 9). -/
def jumpTarget : JumpOperand → State → Word
  | .absolute t, _ => t
  | .indirect p, s => read16 s p

/-- `Resolve` (R80): the operand value and the effective address of each mode, absent where the mode has none;
in a state whose PC is the address of the opcode byte. The `ea` of Immediate and Relative is the address of the
operand byte, which no instruction uses (R97). -/
def resolve : Operand → State → Option Byte × Option Word
  | .implicit, _ => (none, none)
  | .accumulator, s => (some s.a, none)
  | .immediate v, s => (some v, some (s.pc + 1))
  | .relative off, s => (some off, some (s.pc + 1))
  | .mem m, s => (some (memValue m s), some (memAddress m s))
  | .indirect p, s => (none, some (read16 s p))

/-- Whether two addresses lie in different pages: `(base & $FF00) ≠ (ea & $FF00)` (R94, R190). -/
def pageCross (base ea : Word) : Bool := (base &&& 0xFF00#16) != (ea &&& 0xFF00#16)

/-- The page-cross penalty of a memory operand (R94): AbsoluteX, AbsoluteY and IndirectY only. -/
def memPenalty : MemOperand → State → Nat
  | .absoluteX base, s => (pageCross base (base + zext16 s.x)).toNat
  | .absoluteY base, s => (pageCross base (base + zext16 s.y)).toNat
  | .indirectY zp, s => (pageCross (read16ZP s zp) (read16ZP s zp + zext16 s.y)).toNat
  | .zeroPage _, _ => 0
  | .zeroPageX _, _ => 0
  | .zeroPageY _, _ => 0
  | .absolute _, _ => 0
  | .indirectX _, _ => 0

/-- The page-cross penalty of an operand (R94). -/
def operandPenalty : Operand → State → Nat
  | .mem m, s => memPenalty m s
  | .implicit, _ => 0
  | .accumulator, _ => 0
  | .immediate _, _ => 0
  | .relative _, _ => 0
  | .indirect _, _ => 0

end Sys2Proof.Machine
end

