-- ==== Sys2Proof/Machine/Cycles.lean ====
section
/-! DEFINITION. Cycle accounting (spec/70_reset_and_hazards.md R250, R251) and what every instruction does to PC
and `cycles` before its own operation (spec/30_encoding.md R67 to R69). FETCH_COST and OWN_COST are the parameters
of R4: every meaning takes them as its argument `c`, whose default is the spec's. -/

namespace Sys2Proof.Machine

/-- The cycle parameters of the model (R4; U2 and U3 of spec/93_implementation_defined.md). -/
structure Costs where
  /-- FETCH_COST: what the fetch of an opcode byte is charged (R67). -/
  fetch : Nat
  /-- OWN_COST(mnemonic): what an instruction is charged beyond the resolver's contribution (R251); not asked for
  the mnemonics whose own cost the document fixes (`ownCost`). -/
  own : Mnemonic → Nat

/-- The spec's default for OWN_COST (R251, D3). DESIGN CHOICE, unsafe for the value of `cycles` (log entry 3). -/
def defaultOwn : Mnemonic → Nat
  | .brk => 6
  | .nop => 0
  | .bcc | .bcs | .beq | .bne | .bmi | .bpl | .bvc | .bvs => 0
  | .adc | .sbc | .and | .ora | .eor | .bit | .cmp | .cpx | .cpy => 0
  | .lda | .ldx | .ldy | .sta | .stx | .sty => 0
  | .asl | .lsr | .rol | .ror | .inc | .dec | .jmp => 0
  | .clc | .cld | .cli | .clv | .sec | .sed | .sei => 1
  | .tax | .tay | .tsx | .txa | .txs | .tya => 1
  | .inx | .iny | .dex | .dey => 1
  | .pha | .php => 2
  | .pla | .plp => 3
  | .rts => 5
  | .rti => 5
  | .jsr => 2

/-- The parameters at the spec's defaults: FETCH_COST is 1 (D2). The machine that `exec`, `step` and `core` are.
DESIGN CHOICE, unsafe for the value of `cycles` (log entries 2 and 3). -/
def defaultCosts : Costs := { fetch := 1, own := defaultOwn }

/-- FETCH_COST (R4, R67). -/
def fetchCost (c : Costs := defaultCosts) : Nat := c.fetch

/-- ModeCost, the resolver's contribution (R80). -/
def modeCost : Mode → Nat
  | .implicit => 0
  | .accumulator => 1
  | .immediate => 1
  | .zeroPage => 2
  | .zeroPageX => 3
  | .zeroPageY => 3
  | .relative => 2
  | .absolute => 3
  | .absoluteX => 3
  | .absoluteY => 3
  | .indirect => 4
  | .indirectX => 5
  | .indirectY => 4

/-- OWN_COST of an instruction (R4, R251): fixed by the document for BRK, for NOP with the unassigned bytes, and for
the branches; elsewhere the parameter. -/
def ownCost (i : Instr) (c : Costs := defaultCosts) : Nat :=
  match i.op with
  | .brk => 6
  | .nop => 0
  | .bcc | .bcs | .beq | .bne | .bmi | .bpl | .bvc | .bvs => 0
  | m => c.own m

/-- The cost of an instruction but for a branch's extra charges (R250). -/
def instrCost (i : Instr) (s : State) (c : Costs := defaultCosts) : Nat :=
  fetchCost c + modeCost i.mode + operandPenalty i.operand s + ownCost i c

/-- What fetch and resolver do to the state (R67, R68, R80): PC past the instruction's last byte and the cost
charged; nothing else. Each operation runs on the state this leaves. -/
def issue (i : Instr) (s : State) (c : Costs := defaultCosts) : State :=
  { s with pc := s.pc + BitVec.ofNat 16 (instrLength i), cycles := s.cycles + instrCost i s c }

end Sys2Proof.Machine
end

