-- ==== Sys2Proof/Machine/Flags.lean ====
section
/-! DEFINITION. The status byte's flags and every flag computation of the spec (spec/10_state.md R14 to R23,
spec/41_arith_logic.md R101, R102, R106, R107, spec/42_shift_rotate.md). -/

namespace Sys2Proof.Machine

/-- The bit of a flag in the packed status byte (R14). -/
def flagBit : Flag → Nat
  | .c => 0
  | .z => 1
  | .i => 2
  | .d => 3
  | .b => 4
  | .v => 6
  | .n => 7

/-- The mask of a flag in the packed status byte (R14). -/
def flagMask (f : Flag) : Byte := 1#8 <<< flagBit f

/-- Read a flag of a status byte. -/
def getFlag (f : Flag) (p : Byte) : Bool := p.getLsbD (flagBit f)

/-- Write a flag of a status byte and no other bit. -/
def setFlag (f : Flag) (on : Bool) (p : Byte) : Byte := if on then p ||| flagMask f else p &&& ~~~flagMask f

/-- Read a flag of the machine. -/
def flag (f : Flag) (s : State) : Bool := getFlag f s.p

/-- `SetZN` (R23): Z is whether the value is 0, N its bit 7; no other flag. -/
def setZN (v : Byte) (p : Byte) : Byte := setFlag .n (v.getLsbD 7) (setFlag .z (v == 0) p)

/-- The status byte that PLP and RTI load (R181, R202): the popped byte with bit 5 forced to 0 (R20; D5, log
entry 8). -/
def loadStatus (popped : Byte) : Byte := popped &&& 0xDF#8

/-! ## The ALU (9-bit intermediates, R100) -/

/-- A flag as a 9-bit number. -/
def carryIn (c : Bool) : BitVec 9 := if c then 1 else 0

/-- `A + M + C` in 9 bits (R101). -/
def adcSum (a m : Byte) (c : Bool) : BitVec 9 := a.setWidth 9 + m.setWidth 9 + carryIn c

/-- `A − M − (1 − C)` mod 512 (R102). -/
def sbcDiff (a m : Byte) (c : Bool) : BitVec 9 := a.setWidth 9 - m.setWidth 9 - carryIn (!c)

/-- `reg − M` mod 512 (R107). -/
def cmpDiff (r m : Byte) : BitVec 9 := r.setWidth 9 - m.setWidth 9

/-- The low 8 bits of a 9-bit intermediate. -/
def low8 (r : BitVec 9) : Byte := r.setWidth 8

/-- C of ADC (R101): the 9-bit sum exceeds $FF. -/
def adcCarry (r : BitVec 9) : Bool := decide (0x0FF#9 < r)

/-- C of SBC and of the compares (R102, R107): no borrow, the 9-bit difference is below $100. -/
def noBorrow (r : BitVec 9) : Bool := decide (r < 0x100#9)

/-- V of ADC (R101): `(~(A ^ M)) & (A ^ r) & $80 ≠ 0`, A before the add. -/
def adcOverflow (a m r : Byte) : Bool := (~~~(a ^^^ m) &&& (a ^^^ r) &&& 0x80#8) != 0

/-- V of SBC (R102; D9, log entry 12): `(A ^ M) & (A ^ r) & $80 ≠ 0`, A before the subtract. -/
def sbcOverflow (a m r : Byte) : Bool := ((a ^^^ m) &&& (a ^^^ r) &&& 0x80#8) != 0

/-- The status byte after an add or subtract whose result is `r` (R101, R102). -/
def arithFlags (carry overflow : Bool) (r : Byte) (p : Byte) : Byte :=
  setZN r (setFlag .v overflow (setFlag .c carry p))

/-- The status byte after `Compare(reg, M)` (R107): C, Z, N and no other. -/
def compareFlags (r m : Byte) (p : Byte) : Byte :=
  setZN (low8 (cmpDiff r m)) (setFlag .c (noBorrow (cmpDiff r m)) p)

/-- The status byte after BIT (R106): Z of `A & M`, V and N from M itself. -/
def bitFlags (a m : Byte) (p : Byte) : Byte :=
  setFlag .n (m.getLsbD 7) (setFlag .v (m.getLsbD 6) (setFlag .z ((a &&& m) == 0) p))

/-- The status byte after a shift or rotate that moved `carry` out and left `r` (R121 to R124). -/
def shiftFlags (carry : Bool) (r : Byte) (p : Byte) : Byte := setZN r (setFlag .c carry p)

/-- A flag as the bit a rotate moves in at bit 0 (R123). -/
def carryLow (c : Bool) : Byte := if c then 0x01#8 else 0x00#8

/-- A flag as the bit a rotate moves in at bit 7 (R124). -/
def carryHigh (c : Bool) : Byte := if c then 0x80#8 else 0x00#8

end Sys2Proof.Machine
end

