-- ==== Sys2Proof/Machine/Arith.lean ====
section
/-! DEFINITION. ADC SBC AND ORA EOR BIT CMP CPX CPY (spec/41_arith_logic.md), and the register-and-SetZN
operations that loads, transfers, increments and PLA share. -/

namespace Sys2Proof.Machine

/-- `A <- v; SetZN(A)`. -/
def putA (v : Byte) (s : State) : State := { s with a := v, p := setZN v s.p }

/-- `X <- v; SetZN(X)`. -/
def putX (v : Byte) (s : State) : State := { s with x := v, p := setZN v s.p }

/-- `Y <- v; SetZN(Y)`. -/
def putY (v : Byte) (s : State) : State := { s with y := v, p := setZN v s.p }

/-- The operation of ADC on the operand value (R101); D has no effect (R111). -/
def addWithCarry (m : Byte) (s : State) : State :=
  let r := adcSum s.a m (flag .c s)
  { s with a := low8 r, p := arithFlags (adcCarry r) (adcOverflow s.a m (low8 r)) (low8 r) s.p }

/-- The operation of SBC on the operand value (R102); D has no effect (R111). -/
def subWithBorrow (m : Byte) (s : State) : State :=
  let r := sbcDiff s.a m (flag .c s)
  { s with a := low8 r, p := arithFlags (noBorrow r) (sbcOverflow s.a m (low8 r)) (low8 r) s.p }

/-- `Compare(reg, M)` (R107). -/
def compareWith (r m : Byte) (s : State) : State := { s with p := compareFlags r m s.p }

/-- ADC (R101). -/
def execAdc (o : ReadOperand) (s : State) (c : Costs := defaultCosts) : Host.Outcome State Fault Refusal :=
  .next (addWithCarry (readValue o s) (issue (.adc o) s c))

/-- SBC (R102). -/
def execSbc (o : ReadOperand) (s : State) (c : Costs := defaultCosts) : Host.Outcome State Fault Refusal :=
  .next (subWithBorrow (readValue o s) (issue (.sbc o) s c))

/-- AND (R103). -/
def execAnd (o : ReadOperand) (s : State) (c : Costs := defaultCosts) : Host.Outcome State Fault Refusal :=
  .next (putA (s.a &&& readValue o s) (issue (.and o) s c))

/-- ORA (R104). -/
def execOra (o : ReadOperand) (s : State) (c : Costs := defaultCosts) : Host.Outcome State Fault Refusal :=
  .next (putA (s.a ||| readValue o s) (issue (.ora o) s c))

/-- EOR (R105). -/
def execEor (o : ReadOperand) (s : State) (c : Costs := defaultCosts) : Host.Outcome State Fault Refusal :=
  .next (putA (s.a ^^^ readValue o s) (issue (.eor o) s c))

/-- BIT (R106): A and memory are not changed. -/
def execBit (o : MemOperand) (s : State) (c : Costs := defaultCosts) : Host.Outcome State Fault Refusal :=
  let t := issue (.bit o) s c
  .next { t with p := bitFlags s.a (memValue o s) t.p }

/-- CMP (R108). -/
def execCmp (o : ReadOperand) (s : State) (c : Costs := defaultCosts) : Host.Outcome State Fault Refusal :=
  .next (compareWith s.a (readValue o s) (issue (.cmp o) s c))

/-- CPX (R109). -/
def execCpx (o : ReadOperand) (s : State) (c : Costs := defaultCosts) : Host.Outcome State Fault Refusal :=
  .next (compareWith s.x (readValue o s) (issue (.cpx o) s c))

/-- CPY (R110). -/
def execCpy (o : ReadOperand) (s : State) (c : Costs := defaultCosts) : Host.Outcome State Fault Refusal :=
  .next (compareWith s.y (readValue o s) (issue (.cpy o) s c))

end Sys2Proof.Machine
end

