-- ==== Sys2Proof/Machine/Control.lean ====
section
/-! DEFINITION. Branches, jumps, call and returns (spec/47_control_flow.md), and BRK (spec/48_brk_run_loop.md
R210). RTI, the return from an exception the core never takes, pops what the program has placed on the stack
(R202, R224). -/

namespace Sys2Proof.Machine

/-- `Branch(cond, off)` (R190) on a state whose PC is past the operand byte: one cycle when taken, one more when
the target lies in another page than that PC (D8, log entry 11). -/
def branch (cond : Bool) (off : Byte) (s : State) : State :=
  let target := s.pc + sext16 off
  if cond then { s with pc := target, cycles := s.cycles + 1 + (pageCross s.pc target).toNat } else s

/-- BCC (R191). -/
def execBcc (off : Byte) (s : State) (c : Costs := defaultCosts) : Host.Outcome State Fault Refusal :=
  .next (branch (!flag .c s) off (issue (.bcc off) s c))

/-- BCS (R192). -/
def execBcs (off : Byte) (s : State) (c : Costs := defaultCosts) : Host.Outcome State Fault Refusal :=
  .next (branch (flag .c s) off (issue (.bcs off) s c))

/-- BEQ (R193). -/
def execBeq (off : Byte) (s : State) (c : Costs := defaultCosts) : Host.Outcome State Fault Refusal :=
  .next (branch (flag .z s) off (issue (.beq off) s c))

/-- BNE (R194). -/
def execBne (off : Byte) (s : State) (c : Costs := defaultCosts) : Host.Outcome State Fault Refusal :=
  .next (branch (!flag .z s) off (issue (.bne off) s c))

/-- BMI (R195). -/
def execBmi (off : Byte) (s : State) (c : Costs := defaultCosts) : Host.Outcome State Fault Refusal :=
  .next (branch (flag .n s) off (issue (.bmi off) s c))

/-- BPL (R196). -/
def execBpl (off : Byte) (s : State) (c : Costs := defaultCosts) : Host.Outcome State Fault Refusal :=
  .next (branch (!flag .n s) off (issue (.bpl off) s c))

/-- BVC (R197). -/
def execBvc (off : Byte) (s : State) (c : Costs := defaultCosts) : Host.Outcome State Fault Refusal :=
  .next (branch (!flag .v s) off (issue (.bvc off) s c))

/-- BVS (R198). -/
def execBvs (off : Byte) (s : State) (c : Costs := defaultCosts) : Host.Outcome State Fault Refusal :=
  .next (branch (flag .v s) off (issue (.bvs off) s c))

/-- JMP (R199): `PC <- ea`. -/
def execJmp (o : JumpOperand) (s : State) (c : Costs := defaultCosts) : Host.Outcome State Fault Refusal :=
  .next { issue (.jmp o) s c with pc := jumpTarget o s }

/-- Push a word, high byte first (R200). -/
def pushWord (w : Word) (s : State) : State := push (lowByte w) (push (highByte w) s)

/-- The word two pops return, the low byte popped first (R201, R202). -/
def popWord (s : State) : Word := wordOf (popByte s) (popByte (popState s))

/-- JSR (R200): push the address of the instruction's last byte, then `PC <- ea`. -/
def execJsr (target : Word) (s : State) (c : Costs := defaultCosts) : Host.Outcome State Fault Refusal :=
  let t := issue (.jsr target) s c
  .next { pushWord (t.pc - 1) t with pc := target }

/-- RTS (R201): `PC <- popped word + 1`. -/
def execRts (s : State) (c : Costs := defaultCosts) : Host.Outcome State Fault Refusal :=
  .next { popState (popState (issue .rts s c)) with pc := popWord s + 1 }

/-- RTI (R202): P with bit 5 forced to 0, then PC, no `+ 1`. -/
def execRti (s : State) (c : Costs := defaultCosts) : Host.Outcome State Fault Refusal :=
  .next
    { popState (popState (popState (issue .rti s c))) with
      p := loadStatus (popByte s), pc := popWord (popState s) }

/-- BRK (R210): sets B and nothing else; nothing is pushed, no vector is read. -/
def execBrk (s : State) (c : Costs := defaultCosts) : Host.Outcome State Fault Refusal :=
  let t := issue .brk s c
  .next { t with p := setFlag .b true t.p }

end Sys2Proof.Machine
end

