-- ==== Sys2Proof/Machine/FlagOps.lean ====
section
/-! DEFINITION. The flag instructions, NOP and the unassigned bytes (spec/45_flags_nop.md). -/

namespace Sys2Proof.Machine

/-- Write the named flag of the machine and nothing else. -/
def putFlag (f : Flag) (on : Bool) (s : State) : State := { s with p := setFlag f on s.p }

/-- CLC (R160). -/
def execClc (s : State) (c : Costs := defaultCosts) : Host.Outcome State Fault Refusal :=
  .next (putFlag .c false (issue .clc s c))

/-- CLD (R161). -/
def execCld (s : State) (c : Costs := defaultCosts) : Host.Outcome State Fault Refusal :=
  .next (putFlag .d false (issue .cld s c))

/-- CLI (R162): enables nothing, the core has no interrupts (R221). -/
def execCli (s : State) (c : Costs := defaultCosts) : Host.Outcome State Fault Refusal :=
  .next (putFlag .i false (issue .cli s c))

/-- CLV (R163). -/
def execClv (s : State) (c : Costs := defaultCosts) : Host.Outcome State Fault Refusal :=
  .next (putFlag .v false (issue .clv s c))

/-- SEC (R164). -/
def execSec (s : State) (c : Costs := defaultCosts) : Host.Outcome State Fault Refusal :=
  .next (putFlag .c true (issue .sec s c))

/-- SED (R165): arithmetic stays binary (R111). -/
def execSed (s : State) (c : Costs := defaultCosts) : Host.Outcome State Fault Refusal :=
  .next (putFlag .d true (issue .sed s c))

/-- SEI (R166): masks nothing (R221). -/
def execSei (s : State) (c : Costs := defaultCosts) : Host.Outcome State Fault Refusal :=
  .next (putFlag .i true (issue .sei s c))

/-- NOP (R167): PC and `cycles` advance, nothing else. -/
def execNop (s : State) (c : Costs := defaultCosts) : Host.Outcome State Fault Refusal := .next (issue .nop s c)

/-- An unassigned opcode byte (R168): a one-byte NOP that consumes no operand. -/
def execNopUnassigned (op : Byte) (s : State) (c : Costs := defaultCosts) : Host.Outcome State Fault Refusal :=
  .next (issue (.nopUnassigned op) s c)

end Sys2Proof.Machine
end

