-- ==== Sys2Proof/Machine/IncDec.lean ====
section
/-! DEFINITION. INC DEC INX DEX INY DEY (spec/43_incdec.md): wrap mod 256, Z and N only. -/

namespace Sys2Proof.Machine

/-- `SetZN(r); MemWrite(ea, 1, r)` (R130, R131). -/
def storeResult (m : MemOperand) (r : Byte) (s : State) : State :=
  writeByte { s with p := setZN r s.p } (memAddress m s) r

/-- INC (R130). -/
def execInc (o : MemOperand) (s : State) (c : Costs := defaultCosts) : Host.Outcome State Fault Refusal :=
  .next (storeResult o (memValue o s + 1) (issue (.inc o) s c))

/-- DEC (R131). -/
def execDec (o : MemOperand) (s : State) (c : Costs := defaultCosts) : Host.Outcome State Fault Refusal :=
  .next (storeResult o (memValue o s - 1) (issue (.dec o) s c))

/-- INX (R132). -/
def execInx (s : State) (c : Costs := defaultCosts) : Host.Outcome State Fault Refusal :=
  .next (putX (s.x + 1) (issue .inx s c))

/-- DEX (R133). -/
def execDex (s : State) (c : Costs := defaultCosts) : Host.Outcome State Fault Refusal :=
  .next (putX (s.x - 1) (issue .dex s c))

/-- INY (R134). -/
def execIny (s : State) (c : Costs := defaultCosts) : Host.Outcome State Fault Refusal :=
  .next (putY (s.y + 1) (issue .iny s c))

/-- DEY (R135). -/
def execDey (s : State) (c : Costs := defaultCosts) : Host.Outcome State Fault Refusal :=
  .next (putY (s.y - 1) (issue .dey s c))

end Sys2Proof.Machine
end

