-- ==== Sys2Proof/Machine/LoadStore.lean ====
section
/-! DEFINITION. Loads, stores and register transfers (spec/44_load_store_transfer.md). -/

namespace Sys2Proof.Machine

/-- LDA (R140). -/
def execLda (o : ReadOperand) (s : State) (c : Costs := defaultCosts) : Host.Outcome State Fault Refusal :=
  .next (putA (readValue o s) (issue (.lda o) s c))

/-- LDX (R141). -/
def execLdx (o : ReadOperand) (s : State) (c : Costs := defaultCosts) : Host.Outcome State Fault Refusal :=
  .next (putX (readValue o s) (issue (.ldx o) s c))

/-- LDY (R142). -/
def execLdy (o : ReadOperand) (s : State) (c : Costs := defaultCosts) : Host.Outcome State Fault Refusal :=
  .next (putY (readValue o s) (issue (.ldy o) s c))

/-- STA (R143): flags unchanged; the resolver's read of the cell is not used (R95). -/
def execSta (o : MemOperand) (s : State) (c : Costs := defaultCosts) : Host.Outcome State Fault Refusal :=
  .next (writeByte (issue (.sta o) s c) (memAddress o s) s.a)

/-- STX (R144). -/
def execStx (o : MemOperand) (s : State) (c : Costs := defaultCosts) : Host.Outcome State Fault Refusal :=
  .next (writeByte (issue (.stx o) s c) (memAddress o s) s.x)

/-- STY (R145). -/
def execSty (o : MemOperand) (s : State) (c : Costs := defaultCosts) : Host.Outcome State Fault Refusal :=
  .next (writeByte (issue (.sty o) s c) (memAddress o s) s.y)

/-- TAX (R146). -/
def execTax (s : State) (c : Costs := defaultCosts) : Host.Outcome State Fault Refusal :=
  .next (putX s.a (issue .tax s c))

/-- TAY (R147). -/
def execTay (s : State) (c : Costs := defaultCosts) : Host.Outcome State Fault Refusal :=
  .next (putY s.a (issue .tay s c))

/-- TSX (R148). -/
def execTsx (s : State) (c : Costs := defaultCosts) : Host.Outcome State Fault Refusal :=
  .next (putX s.sp (issue .tsx s c))

/-- TXA (R149). -/
def execTxa (s : State) (c : Costs := defaultCosts) : Host.Outcome State Fault Refusal :=
  .next (putA s.x (issue .txa s c))

/-- TYA (R150). -/
def execTya (s : State) (c : Costs := defaultCosts) : Host.Outcome State Fault Refusal :=
  .next (putA s.y (issue .tya s c))

/-- TXS (R151): the one transfer that writes no flag. -/
def execTxs (s : State) (c : Costs := defaultCosts) : Host.Outcome State Fault Refusal :=
  .next { issue .txs s c with sp := s.x }

end Sys2Proof.Machine
end

