-- ==== Sys2Proof/Machine/Shift.lean ====
section
/-! DEFINITION. ASL LSR ROL ROR (spec/42_shift_rotate.md) over one write-back operation (R120). -/

namespace Sys2Proof.Machine

/-- `WriteBack` (R120): to A in Accumulator mode, else to the effective address, with the bit moved out and the
result's Z and N in the flags (R121 to R124). No addressing mode changes what the effective address depends on. -/
def writeBack (o : RmwOperand) (carry : Bool) (r : Byte) (s : State) : State :=
  let t := { s with p := shiftFlags carry r s.p }
  match o with
  | .accumulator => { t with a := r }
  | .mem m => writeByte t (memAddress m s) r

/-- ASL (R121). -/
def execAsl (o : RmwOperand) (s : State) (c : Costs := defaultCosts) : Host.Outcome State Fault Refusal :=
  let m := rmwValue o s
  .next (writeBack o (m.getLsbD 7) (m <<< 1) (issue (.asl o) s c))

/-- LSR (R122). -/
def execLsr (o : RmwOperand) (s : State) (c : Costs := defaultCosts) : Host.Outcome State Fault Refusal :=
  let m := rmwValue o s
  .next (writeBack o (m.getLsbD 0) (m >>> 1) (issue (.lsr o) s c))

/-- ROL (R123): the old carry enters bit 0. -/
def execRol (o : RmwOperand) (s : State) (c : Costs := defaultCosts) : Host.Outcome State Fault Refusal :=
  let m := rmwValue o s
  .next (writeBack o (m.getLsbD 7) ((m <<< 1) ||| carryLow (flag .c s)) (issue (.rol o) s c))

/-- ROR (R124): the old carry enters bit 7. -/
def execRor (o : RmwOperand) (s : State) (c : Costs := defaultCosts) : Host.Outcome State Fault Refusal :=
  let m := rmwValue o s
  .next (writeBack o (m.getLsbD 0) ((m >>> 1) ||| carryHigh (flag .c s)) (issue (.ror o) s c))

end Sys2Proof.Machine
end

