-- ==== Sys2Proof/Machine/Stack.lean ====
section
/-! DEFINITION. PHA PHP PLA PLP (spec/46_stack.md). -/

namespace Sys2Proof.Machine

/-- PHA (R178): `Push(A)`. -/
def execPha (s : State) (c : Costs := defaultCosts) : Host.Outcome State Fault Refusal :=
  .next (push s.a (issue .pha s c))

/-- PHP (R179): `Push(P)`, the byte exactly as it stands. -/
def execPhp (s : State) (c : Costs := defaultCosts) : Host.Outcome State Fault Refusal :=
  .next (push s.p (issue .php s c))

/-- PLA (R180): `A <- Pop(); SetZN(A)`. -/
def execPla (s : State) (c : Costs := defaultCosts) : Host.Outcome State Fault Refusal :=
  .next (putA (popByte s) (popState (issue .pla s c)))

/-- PLP (R181): `P <- Pop() & $DF`. -/
def execPlp (s : State) (c : Costs := defaultCosts) : Host.Outcome State Fault Refusal :=
  .next { popState (issue .plp s c) with p := loadStatus (popByte s) }

end Sys2Proof.Machine
end

