-- ==== Sys2Proof/Machine/Step.lean ====
section
/-! DEFINITION. One step of the core (spec/30_encoding.md R68): fetch, decode, execute one whole instruction. It
does not test B: that is the run loop's test, after the step (spec/48_brk_run_loop.md R213; Machine/Run.lean). -/

namespace Sys2Proof.Machine

/-- `Step` (R68). -/
def step (s : State) : Host.Outcome State Fault Refusal := exec (fetchInstr s) s

/-- The state with an instruction's bytes stored where `step` fetches next: at PC and the two addresses after it,
bytes above `nbits` being 0. Stands for the host's loading of a program (log entry 14). -/
def State.withFetchWord (s : State) (nbits w : Nat) : State :=
  writeByte
    (writeByte (writeByte s s.pc (tableByte nbits w 0)) (s.pc + 1) (tableByte nbits w 1))
    (s.pc + 2) (tableByte nbits w 2)

end Sys2Proof.Machine
end

