-- ==== Sys2Proof/Machine/Parametric.lean ====
section
/-! DEFINITION. The machine with FETCH_COST and OWN_COST as arguments (spec/00_scope.md R4). `exec` and `step`, whose
types have no room for an argument, are these at the spec's defaults (Laws/Step.lean `execWith_defaultCosts`,
`stepWith_defaultCosts`). -/

namespace Sys2Proof.Machine

/-- The meaning of each instruction under given cycle parameters: the meanings of Machine/Dispatch.lean. -/
def execWith (c : Costs) (i : Instr) (s : State) : Host.Outcome State Fault Refusal :=
  match i with
  | .adc o => execAdc o s c
  | .sbc o => execSbc o s c
  | .and o => execAnd o s c
  | .ora o => execOra o s c
  | .eor o => execEor o s c
  | .bit o => execBit o s c
  | .cmp o => execCmp o s c
  | .cpx o => execCpx o s c
  | .cpy o => execCpy o s c
  | .asl o => execAsl o s c
  | .lsr o => execLsr o s c
  | .rol o => execRol o s c
  | .ror o => execRor o s c
  | .inc o => execInc o s c
  | .dec o => execDec o s c
  | .inx => execInx s c
  | .dex => execDex s c
  | .iny => execIny s c
  | .dey => execDey s c
  | .lda o => execLda o s c
  | .ldx o => execLdx o s c
  | .ldy o => execLdy o s c
  | .sta o => execSta o s c
  | .stx o => execStx o s c
  | .sty o => execSty o s c
  | .tax => execTax s c
  | .tay => execTay s c
  | .tsx => execTsx s c
  | .txa => execTxa s c
  | .tya => execTya s c
  | .txs => execTxs s c
  | .clc => execClc s c
  | .cld => execCld s c
  | .cli => execCli s c
  | .clv => execClv s c
  | .sec => execSec s c
  | .sed => execSed s c
  | .sei => execSei s c
  | .nop => execNop s c
  | .nopUnassigned op => execNopUnassigned op s c
  | .pha => execPha s c
  | .php => execPhp s c
  | .pla => execPla s c
  | .plp => execPlp s c
  | .bcc off => execBcc off s c
  | .bcs off => execBcs off s c
  | .beq off => execBeq off s c
  | .bne off => execBne off s c
  | .bmi off => execBmi off s c
  | .bpl off => execBpl off s c
  | .bvc off => execBvc off s c
  | .bvs off => execBvs off s c
  | .jmp o => execJmp o s c
  | .jsr target => execJsr target s c
  | .rts => execRts s c
  | .rti => execRti s c
  | .brk => execBrk s c

/-- `Step` (R68) under given cycle parameters. -/
def stepWith (c : Costs) (s : State) : Host.Outcome State Fault Refusal := execWith c (fetchInstr s) s

end Sys2Proof.Machine
end

