-- ==== Sys2Proof/Machine/Run.lean ====
section
/-! DEFINITION. The run loop the host invokes (spec/48_brk_run_loop.md R211 to R215), under fuel: step until B is
1 after an instruction. Running out of fuel means "did not terminate", never a final state (R215; log entry 5). -/

namespace Sys2Proof.Machine

/-- The condition the run loop tests after every instruction (R212). -/
def halted (s : State) : Bool := flag .b s

/-- `Run` (R211): the end state of a run that ends within `fuel` instructions, under given cycle parameters. The value
`run` returns is that state's `cycles` (R214). The run starts in `s`, whose memory is INIT_MEM (R4, R54). -/
def runLoop (fuel : Nat) (s : State) (c : Costs := defaultCosts) : Option State :=
  match fuel with
  | 0 => none
  | fuel + 1 =>
    match stepWith c s with
    | .next t => if halted t then some t else runLoop fuel t c
    | .fault _ => none
    | .refused _ => none

end Sys2Proof.Machine
end

