-- ==== Sys2Proof/Safety.lean ====
section
/-! DEFINITION. What is true of every state the core can be in (spec/10_state.md R20, R26) and of memory's data. -/

namespace Sys2Proof.Machine

/-- The invariant: bit 5 of P is 0 (R20, R26), and memory is in its canonical form. The widths of R26 are in the
types. -/
def State.Inv (s : State) : Prop := s.p.getLsbD 5 = false ∧ s.mem.wf = true

end Sys2Proof.Machine
end

