-- ==== Sys2Proof/WellFormed.lean ====
section
/-! DEFINITION. Which terms of Instr are instructions of the core: the mnemonic takes the mode (spec/30_encoding.md
R64), and an unassigned byte is one of the 105 of R65. Both tables stand in Decode.lean. The resolver does not
check the pairing (R97), so the meanings do not either; the decoder yields well-formed instructions only. -/

namespace Sys2Proof

/-- The byte that an instruction of no mnemonic's own carries is an unassigned one (R65). -/
def Instr.unassignedOk : Instr → Bool
  | .nopUnassigned op => unassignedBytes.contains op
  | _ => true

/-- The instruction stands in the decode table. -/
def Instr.wellFormed (i : Instr) : Bool := (modesOf i).contains i.mode && i.unassignedOk

end Sys2Proof
end

