-- ==== Sys2Proof/Certificates/Slice0/Obligations.lean ====
section
/-! DEFINITION. The statements for the provers, and the words they are said in (namespace Sys2Proof.Claims): what
an instruction writes, and what it keeps. Results are said in plain numbers and status-bit numbers (R14), not with
the model's own ALU.

CYCLES. Where a statement about `exec` says how `cycles` grows it uses `instrCost` or the parameters `fetchCost` and
`ownCost`, R250's sum over the parameters of R4, at their default argument. The numbers that follow from the
defaults (the spec's decisions D2 and D3, log entries 2 and 3) are stated once, in
`Obligations.EveryInstructionChargesItsListedTotal`; what other values of the parameters change, in
`Obligations.CycleParametersReachCyclesOnly`. -/

namespace Sys2Proof.Claims

open Sys2Proof.Machine

/-- Every status bit outside `written` (bit numbers of R14, bit 5 among them) is as before. -/
def KeepsStatus (written : List Nat) (s t : State) : Prop :=
  ∀ k, k < 8 → k ∉ written → t.p.getLsbD k = s.p.getLsbD k

/-- Every byte of memory reads as before. -/
def KeepsMemory (s t : State) : Prop := ∀ addr : Word, readByte t addr = readByte s addr

/-- Every byte of memory outside `stored` reads as before. -/
def KeepsMemoryBut (stored : List Word) (s t : State) : Prop :=
  ∀ addr : Word, addr ∉ stored → readByte t addr = readByte s addr

/-- A, X, Y and SP are as before. -/
def KeepsRegisters (s t : State) : Prop := t.a = s.a ∧ t.x = s.x ∧ t.y = s.y ∧ t.sp = s.sp

/-- PC is past the instruction and its cost is charged (R69, R250). -/
def Retires (i : Instr) (s t : State) : Prop :=
  t.pc.toNat = (s.pc.toNat + instrLength i) % 65536 ∧ t.cycles = s.cycles + instrCost i s

/-- Z and N of a result (R23). -/
def ShowsZN (v : Byte) (t : State) : Prop :=
  t.p.getLsbD 1 = decide (v.toNat = 0) ∧ t.p.getLsbD 7 = decide (128 ≤ v.toNat)

/-- The instruction writes `v` to A, with Z and N, and nothing else. -/
def WritesA (v : Byte) (i : Instr) (s t : State) : Prop :=
  t.a = v ∧ ShowsZN v t ∧ KeepsStatus [1, 7] s t ∧ t.x = s.x ∧ t.y = s.y ∧ t.sp = s.sp ∧ KeepsMemory s t ∧
    Retires i s t

/-- The instruction writes `v` to X, with Z and N, and nothing else. -/
def WritesX (v : Byte) (i : Instr) (s t : State) : Prop :=
  t.x = v ∧ ShowsZN v t ∧ KeepsStatus [1, 7] s t ∧ t.a = s.a ∧ t.y = s.y ∧ t.sp = s.sp ∧ KeepsMemory s t ∧
    Retires i s t

/-- The instruction writes `v` to Y, with Z and N, and nothing else. -/
def WritesY (v : Byte) (i : Instr) (s t : State) : Prop :=
  t.y = v ∧ ShowsZN v t ∧ KeepsStatus [1, 7] s t ∧ t.a = s.a ∧ t.x = s.x ∧ t.sp = s.sp ∧ KeepsMemory s t ∧
    Retires i s t

/-- The instruction compares `reg` with `m`: C is unsigned "not below", Z equality, N bit 7 of the difference
mod 256; nothing else is written (R107). -/
def ComparesTo (reg m : Byte) (i : Instr) (s t : State) : Prop :=
  t.p.getLsbD 0 = decide (m.toNat ≤ reg.toNat) ∧ t.p.getLsbD 1 = decide (reg = m) ∧
    t.p.getLsbD 7 = decide (128 ≤ (reg.toNat + 256 - m.toNat) % 256) ∧
    KeepsStatus [0, 1, 7] s t ∧ KeepsRegisters s t ∧ KeepsMemory s t ∧ Retires i s t

/-- The shift or rotate writes `r` back to its operand (R120), moves `carry` out, and writes nothing else. -/
def ShiftsTo (o : RmwOperand) (r : Nat) (carry : Bool) (i : Instr) (s t : State) : Prop :=
  (match o with
    | .accumulator => t.a.toNat = r ∧ KeepsMemory s t
    | .mem m =>
      t.a = s.a ∧ (readByte t (memAddress m s)).toNat = r ∧ KeepsMemoryBut [memAddress m s] s t) ∧
    t.p.getLsbD 0 = carry ∧ t.p.getLsbD 1 = decide (r = 0) ∧ t.p.getLsbD 7 = decide (128 ≤ r) ∧
    KeepsStatus [0, 1, 7] s t ∧ t.x = s.x ∧ t.y = s.y ∧ t.sp = s.sp ∧ Retires i s t

/-- The instruction stores `v` at the effective address of `m` and writes nothing else. -/
def StoresAt (m : MemOperand) (v : Byte) (i : Instr) (s t : State) : Prop :=
  readByte t (memAddress m s) = v ∧ KeepsMemoryBut [memAddress m s] s t ∧ KeepsRegisters s t ∧ t.p = s.p ∧
    Retires i s t

/-- The instruction writes status bit `k` with `on` and nothing else. -/
def WritesStatusBit (k : Nat) (on : Bool) (i : Instr) (s t : State) : Prop :=
  t.p.getLsbD k = on ∧ KeepsStatus [k] s t ∧ KeepsRegisters s t ∧ KeepsMemory s t ∧ Retires i s t

/-- The stack cell that an SP of value `n` mod 256 names (R12). -/
def stackCell (n : Nat) : Word := BitVec.ofNat 16 (0x0100 + n % 256)

/-- The byte the next pop returns (R176). -/
def topByte (s : State) : Byte := readByte s (stackCell (s.sp.toNat + 1))

/-- The instruction pushes `v` and writes nothing else (R175). -/
def Pushes (v : Byte) (i : Instr) (s t : State) : Prop :=
  readByte t (stackCell s.sp.toNat) = v ∧ KeepsMemoryBut [stackCell s.sp.toNat] s t ∧
    t.sp.toNat = (s.sp.toNat + 255) % 256 ∧ t.a = s.a ∧ t.x = s.x ∧ t.y = s.y ∧ t.p = s.p ∧ Retires i s t

/-- The state after a branch (R190): a displacement from −128 to 127 is added to the next instruction's address
when the branch is taken, at one cycle more, and one more when that address and the target lie in two pages (D8,
log entry 11). -/
def afterBranch (taken : Bool) (i : Instr) (off : Byte) (s : State) : State :=
  let following := BitVec.ofNat 16 (s.pc.toNat + 2)
  let target := BitVec.ofInt 16 (s.pc.toNat + 2 + off.toInt)
  let cross := if following.toNat / 256 = target.toNat / 256 then 0 else 1
  if taken then { s with pc := target, cycles := s.cycles + fetchCost + 2 + ownCost i + 1 + cross }
  else { s with pc := following, cycles := s.cycles + fetchCost + 2 + ownCost i }

/-- Whether an instruction sets PC itself in a state: JMP, JSR, RTS, RTI, and a branch whose condition holds. -/
def setsPc : Instr → State → Bool
  | .jmp _, _ | .jsr _, _ | .rts, _ | .rti, _ => true
  | .bcc _, s => !s.p.getLsbD 0
  | .bcs _, s => s.p.getLsbD 0
  | .beq _, s => s.p.getLsbD 1
  | .bne _, s => !s.p.getLsbD 1
  | .bmi _, s => s.p.getLsbD 7
  | .bpl _, s => !s.p.getLsbD 7
  | .bvc _, s => !s.p.getLsbD 6
  | .bvs _, s => s.p.getLsbD 6
  | _, _ => false

/-- The addresses an instruction stores to. -/
def storedAddresses : Instr → State → List Word
  | .sta m, s | .stx m, s | .sty m, s | .inc m, s | .dec m, s => [memAddress m s]
  | .asl (.mem m), s | .lsr (.mem m), s | .rol (.mem m), s | .ror (.mem m), s => [memAddress m s]
  | .pha, s | .php, s => [stackCell s.sp.toNat]
  | .jsr _, s => [stackCell s.sp.toNat, stackCell (s.sp.toNat + 255)]
  | _, _ => []

/-- 1 where two addresses lie in two pages, else 0. -/
def crossing (base ea : Word) : Nat := if base.toNat / 256 = ea.toNat / 256 then 0 else 1

/-- The page-cross penalty of an operand (R94), from the two addresses it compares. -/
def penaltyOf : Operand → State → Nat
  | .mem (.absoluteX base), s => crossing base (BitVec.ofNat 16 (base.toNat + s.x.toNat))
  | .mem (.absoluteY base), s => crossing base (BitVec.ofNat 16 (base.toNat + s.y.toNat))
  | .mem (.indirectY zp), s => crossing (read16ZP s zp) (BitVec.ofNat 16 ((read16ZP s zp).toNat + s.y.toNat))
  | _, _ => 0

/-- The total of a mode for an instruction of own cost 0, page cross apart (R252). -/
def totalOfMode : Mode → Nat
  | .implicit => 1
  | .accumulator => 2
  | .immediate => 2
  | .zeroPage => 3
  | .zeroPageX => 4
  | .zeroPageY => 4
  | .relative => 3
  | .absolute => 4
  | .absoluteX => 4
  | .absoluteY => 4
  | .indirect => 5
  | .indirectX => 6
  | .indirectY => 5

/-- The listed total of every instruction but a branch (R251, R252). -/
def listedTotal : Instr → State → Nat
  | .brk, _ => 7
  | .clc, _ | .cld, _ | .cli, _ | .clv, _ | .sec, _ | .sed, _ | .sei, _ => 2
  | .tax, _ | .tay, _ | .tsx, _ | .txa, _ | .txs, _ | .tya, _ => 2
  | .inx, _ | .iny, _ | .dex, _ | .dey, _ => 2
  | .pha, _ | .php, _ => 3
  | .pla, _ | .plp, _ => 4
  | .rts, _ | .rti, _ | .jsr _, _ => 6
  | i, s => totalOfMode i.mode + penaltyOf i.operand s

/-- OWN_COST of an instruction under given parameters (R251): three cases are the document's, the others the
parameter's. -/
def ownOf (c : Costs) : Instr → Nat
  | .brk => 6
  | .nop | .nopUnassigned _ => 0
  | .bcc _ | .bcs _ | .beq _ | .bne _ | .bmi _ | .bpl _ | .bvc _ | .bvs _ => 0
  | i => c.own i.op

/-- What an instruction that leads from `s` to `t` charges under given parameters (R250). -/
def chargeOf (c : Costs) (i : Instr) (s t : State) : Nat :=
  c.fetch + modeCost i.mode + penaltyOf i.operand s + ownOf c i +
    (match i.operand with
      | .relative _ => if setsPc i s then 1 + crossing (BitVec.ofNat 16 (s.pc.toNat + 2)) t.pc else 0
      | _ => 0)

/-- `f` done `n` times over, the instruction or the step it stands for completing each time. -/
def times (f : State → Host.Outcome State Fault Refusal) : Nat → State → Host.Outcome State Fault Refusal
  | 0, s => .next s
  | n + 1, s =>
    match f s with
    | .next t => times f n t
    | .fault r => .fault r
    | .refused r => .refused r

/-- `s` with all the bytes pushed, the first of the list first. -/
def pushAll : List Byte → State → State
  | [], s => s
  | v :: vs, s => pushAll vs (push v s)

end Sys2Proof.Claims

open Sys2Proof Sys2Proof.Machine Sys2Proof.Claims

/-! ## Encoding (spec/30_encoding.md) -/

/-- A few words of the table, written out from the spec's encodings, decode to their instructions. The modes of
the bytes are D15 (log entry 13), $DE is D4 (log entry 7). -/
def Obligations.DecodesWordsOfTheTable : Prop :=
  decodeBytes [0x69, 0x31] = .ok (.adc (.immediate 0x31), []) ∧
  decodeBytes [0x91, 0x40] = .ok (.sta (.indirectY 0x40), []) ∧
  decodeBytes [0x6C, 0xFF, 0x12] = .ok (.jmp (.indirect 0x12FF), []) ∧
  decodeBytes [0x20, 0x10, 0x06] = .ok (.jsr 0x0610, []) ∧
  decodeBytes [0xDE, 0x00, 0x02] = .ok (.dec (.absoluteX 0x0200), []) ∧
  decodeBytes [0x0A] = .ok (.asl .accumulator, []) ∧
  decodeBytes [0xF0, 0x05] = .ok (.beq 0x05, []) ∧
  decodeBytes [0x80, 0xA9] = .ok (.nopUnassigned 0x80, [0xA9])

/-- Every well-formed instruction has an encoding, and decoding it, whatever bytes follow, gives the instruction
and those bytes back. -/
def Obligations.DecodeOfEncodeGivesTheInstruction : Prop :=
  ∀ i : Instr, i.wellFormed = true →
    ∃ bs, encode i = some bs ∧ ∀ rest, decodeBytes (bs ++ rest) = .ok (i, rest)

/-- Whatever the decoder reads off a list of bytes is well formed, and encoding it gives the bytes read. -/
def Obligations.EncodeOfDecodeGivesTheBytes : Prop :=
  ∀ (bs rest : List Byte) (i : Instr), decodeBytes bs = .ok (i, rest) →
    i.wellFormed = true ∧ ∃ e, encode i = some e ∧ e ++ rest = bs

/-- Decoding is total and a function of the opcode byte: mnemonic and mode do not depend on the bytes after it,
105 bytes are unassigned and give NOP in Implicit mode, each of the others an instruction of the 56, and no three
bytes are rejected. Which 105 they are, $DE not among them, is R65 with D4 (log entry 7); that the decoded NOP keeps
its byte is the model's representation (log entry 16). -/
def Obligations.OpcodeByteAloneSelectsMnemonicAndMode : Prop :=
  (∀ op lo hi lo' hi' : Byte,
    (decode op lo hi).mnemonic = (decode op lo' hi').mnemonic ∧ (decode op lo hi).mode = (decode op lo' hi').mode) ∧
  unassignedBytes.length = 105 ∧ unassignedBytes.Nodup ∧
  (∀ op lo hi : Byte, op ∈ unassignedBytes →
    (decode op lo hi).mnemonic = "NOP" ∧ (decode op lo hi).mode = .implicit ∧ decode op lo hi = .nopUnassigned op) ∧
  (∀ op lo hi other : Byte, op ∉ unassignedBytes → decode op lo hi ≠ .nopUnassigned other) ∧
  (∀ op lo hi : Byte, ∃ rest, decodeBytes [op, lo, hi] = .ok (decode op lo hi, rest))

/-! ## The step (spec/30_encoding.md section 4, spec/60_exceptions.md) -/

/-- A step runs the decoded instruction: if the three bytes at PC decode to `i`, and also if the encoding of a
well-formed `i` lies at PC, the step is the meaning of `i` in that state. The meaning itself moves PC past the
instruction. -/
def Obligations.StepRunsTheDecodedInstruction : Prop :=
  (∀ (s : State) (i : Instr) (rest : List Byte),
    decodeBytes [readByte s s.pc, readByte s (s.pc + 1), readByte s (s.pc + 2)] = .ok (i, rest) →
      step s = exec i s) ∧
  (∀ (s : State) (i : Instr) (bs : List Byte), i.wellFormed = true → encode i = some bs →
    (∀ (k : Nat) (h : k < bs.length), readByte s (s.pc + BitVec.ofNat 16 k) = bs[k]) → step s = exec i s)

/-- The step function is total: no state faults, no instruction is refused. -/
def Obligations.EveryStateHasANextState : Prop :=
  (∀ s : State, ∃ t, step s = .next t) ∧ ∀ (i : Instr) (s : State), ∃ t, exec i s = .next t

/-- PC advances by the length of the instruction's encoding, 1 + operand bytes, mod 65536, for every instruction
but JMP, JSR, RTS, RTI and taken branches; BRK and the unassigned bytes are among them. -/
def Obligations.PcAdvancesPastTheEncoding : Prop :=
  ∀ (i : Instr) (bs : List Byte) (s : State), encode i = some bs → setsPc i s = false →
    ∃ t, exec i s = .next t ∧ t.pc.toNat = (s.pc.toNat + bs.length) % 65536

/-! ## Invariants and whole-machine rules (spec/10_state.md) -/

/-- Every step keeps bit 5 of P at 0 and memory in its canonical form. That PLP and RTI clear bit 5 is D5 (log
entry 8); the canonical form is the model's data form. -/
def Obligations.StepKeepsBit5ClearAndMemoryCanonical : Prop :=
  ∀ s t : State, s.Inv → step s = .next t → t.Inv

/-- The state after reset meets the invariant, and so does any state after a reset of the core whose memory is
canonical. -/
def Obligations.ResetEstablishesTheInvariant : Prop :=
  State.reset.Inv ∧ ∀ s : State, s.mem.wf = true → (resetCore s).Inv

/-- Creation is all zero; reset gives every register its stated value, adds 8 to `cycles` and leaves memory; the
first state anyone sees is creation followed by reset. -/
def Obligations.ResetGivesEveryRegisterItsValue : Prop :=
  (State.created.pc = 0 ∧ State.created.sp = 0 ∧ State.created.a = 0 ∧ State.created.x = 0 ∧
    State.created.y = 0 ∧ State.created.p = 0 ∧ State.created.cycles = 0) ∧
  (∀ s : State,
    (resetCore s).pc = 0x0600 ∧ (resetCore s).sp = 0xFF ∧ (resetCore s).a = 0 ∧ (resetCore s).x = 0 ∧
    (resetCore s).y = 0 ∧ (resetCore s).p = 0 ∧ (resetCore s).cycles = s.cycles + 8 ∧
    KeepsMemory s (resetCore s)) ∧
  resetCore State.created = State.reset

/-- `cycles` is a tally and nothing else: 0 at creation, 8 more at each reset, never less after an instruction or a
step, and read by none: with another tally the same state follows, and the tally grows by the same amount. -/
def Obligations.CyclesIsOnlyATally : Prop :=
  State.created.cycles = 0 ∧ (∀ s : State, (resetCore s).cycles = s.cycles + 8) ∧
  (∀ (i : Instr) (s t : State), exec i s = .next t →
    s.cycles ≤ t.cycles ∧
      ∀ n, exec i { s with cycles := n } = .next { t with cycles := n + (t.cycles - s.cycles) }) ∧
  (∀ s t : State, step s = .next t →
    s.cycles ≤ t.cycles ∧
      ∀ n, step { s with cycles := n } = .next { t with cycles := n + (t.cycles - s.cycles) })

/-- I and D are storage bits: I is written by SEI (1), CLI (0), PLP and RTI (bit 2 of the popped byte) alone, D by
SED, CLD, PLP and RTI (bit 3), both are 0 after reset, and no instruction but PHP reads them: two states that
differ in these bits only give next states that differ in these bits only. -/
def Obligations.InterruptAndDecimalBitsAreStorageOnly : Prop :=
  (∀ (i : Instr) (s t : State), exec i s = .next t →
    t.p.getLsbD 2 = (match i with
      | .sei => true
      | .cli => false
      | .plp | .rti => (topByte s).getLsbD 2
      | _ => s.p.getLsbD 2) ∧
    t.p.getLsbD 3 = (match i with
      | .sed => true
      | .cld => false
      | .plp | .rti => (topByte s).getLsbD 3
      | _ => s.p.getLsbD 3)) ∧
  (∀ s : State, (resetCore s).p.getLsbD 2 = false ∧ (resetCore s).p.getLsbD 3 = false) ∧
  (∀ (i : Instr) (s : State) (q : Byte), i ≠ .php → (∀ k, k < 8 → k ∉ [2, 3] → q.getLsbD k = s.p.getLsbD k) →
    ∃ t r, exec i s = .next t ∧ exec i { s with p := q } = .next { t with p := r } ∧
      ∀ k, k < 8 → k ∉ [2, 3] → r.getLsbD k = t.p.getLsbD k)

/-- B is set by BRK, loaded from bit 4 of the popped byte by PLP and RTI, cleared by reset, and kept by every other
instruction. -/
def Obligations.BreakBitHasThreeWriters : Prop :=
  (∀ (i : Instr) (s t : State), exec i s = .next t →
    t.p.getLsbD 4 = (match i with
      | .brk => true
      | .plp | .rti => (topByte s).getLsbD 4
      | _ => s.p.getLsbD 4)) ∧
  (∀ s : State, (resetCore s).p.getLsbD 4 = false)

/-- C, Z, V and N have no writers but those the spec lists, and bit 5 of P is never set; that PLP and RTI do not set
it is D5 (log entry 8). -/
def Obligations.ArithmeticFlagsHaveTheListedWriters : Prop :=
  ∀ (i : Instr) (s t : State), exec i s = .next t →
    (i.mnemonic ∉ ["ADC", "SBC", "CMP", "CPX", "CPY", "ASL", "ROL", "LSR", "ROR", "CLC", "SEC", "PLP", "RTI"] →
      t.p.getLsbD 0 = s.p.getLsbD 0) ∧
    (i.mnemonic ∉ ["ADC", "SBC", "AND", "ORA", "EOR", "ASL", "LSR", "ROL", "ROR", "INC", "DEC", "INX", "DEX", "INY",
        "DEY", "LDA", "LDX", "LDY", "TAX", "TAY", "TSX", "TXA", "TYA", "PLA", "CMP", "CPX", "CPY", "BIT", "PLP",
        "RTI"] →
      t.p.getLsbD 1 = s.p.getLsbD 1 ∧ t.p.getLsbD 7 = s.p.getLsbD 7) ∧
    (i.mnemonic ∉ ["ADC", "SBC", "BIT", "CLV", "PLP", "RTI"] → t.p.getLsbD 6 = s.p.getLsbD 6) ∧
    (s.p.getLsbD 5 = false → t.p.getLsbD 5 = false)

/-- A, X, Y and SP have no writers but those the spec lists; A is written by a shift in Accumulator mode only. -/
def Obligations.RegistersHaveTheListedWriters : Prop :=
  ∀ (i : Instr) (s t : State), exec i s = .next t →
    (i.mnemonic ∉ ["ADC", "SBC", "AND", "ORA", "EOR", "LDA", "PLA", "TXA", "TYA"] → i.mode ≠ .accumulator →
      t.a = s.a) ∧
    (i.mnemonic ∉ ["LDX", "TAX", "TSX", "INX", "DEX"] → t.x = s.x) ∧
    (i.mnemonic ∉ ["LDY", "TAY", "INY", "DEY"] → t.y = s.y) ∧
    (i.mnemonic ∉ ["PHA", "PHP", "JSR", "PLA", "PLP", "RTS", "RTI", "TXS"] → t.sp = s.sp)

/-- Every instruction leaves every byte of memory outside the addresses it stores to as it was; an instruction that
stores nothing leaves all of it. -/
def Obligations.MemoryChangesOnlyWhereStored : Prop :=
  ∀ (i : Instr) (s t : State), exec i s = .next t → KeepsMemoryBut (storedAddresses i s) s t

/-- The total of every instruction with FETCH_COST and OWN_COST at the spec's default values (D2, D3, log entries 2
and 3): the mode's total and page cross, the listed own costs, and 3, 4 or 5 for a branch (D8, log entry 11). -/
def Obligations.EveryInstructionChargesItsListedTotal : Prop :=
  ∀ (i : Instr) (s t : State), exec i s = .next t →
    t.cycles = s.cycles + (match i.operand with
      | .relative _ => if setsPc i s then 4 + crossing (BitVec.ofNat 16 (s.pc.toNat + 2)) t.pc else 3
      | _ => listedTotal i s)

/-! ## Memory (spec/20_memory.md) -/

/-- A read returns the latest write to its address; a write changes no other cell and no register; a read is a
function of memory alone: states with the same memory read alike at every address. -/
def Obligations.ReadReturnsTheLatestWrite : Prop :=
  (∀ (s : State) (addr : Word) (v : Byte),
    readByte (writeByte s addr v) addr = v ∧
    KeepsMemoryBut [addr] s (writeByte s addr v) ∧
    { writeByte s addr v with mem := s.mem } = s) ∧
  ∀ (s s' : State) (addr : Word), s.mem = s'.mem → readByte s addr = readByte s' addr

/-- Two canonical memories that read alike at every address are equal data: the model's data form adds nothing. -/
def Obligations.CanonicalMemoriesReadingAlikeAreEqual : Prop :=
  ∀ m m' : Memory, m.wf = true → m'.wf = true → (∀ addr : Word, memRead m addr = memRead m' addr) → m = m'

/-- A store is seen by the very next fetch: an STA, STX or STY over the next instruction's opcode byte, its first or
its second operand byte changes what the next step runs. -/
def Obligations.StoreIsSeenByTheNextFetch : Prop :=
  ∀ (o : MemOperand) (s t : State) (i : Instr) (v : Byte),
    (i = .sta o ∧ v = s.a) ∨ (i = .stx o ∧ v = s.x) ∨ (i = .sty o ∧ v = s.y) → exec i s = .next t →
      (memAddress o s = t.pc → step t = exec (decode v (readByte s (t.pc + 1)) (readByte s (t.pc + 2))) t) ∧
      (memAddress o s = t.pc + 1 → step t = exec (decode (readByte s t.pc) v (readByte s (t.pc + 2))) t) ∧
      (memAddress o s = t.pc + 2 → step t = exec (decode (readByte s t.pc) (readByte s (t.pc + 1)) v) t)

/-! ## The resolver (spec/40_addressing.md) -/

/-- The modes whose operand is not in memory: what `Resolve` returns, the operand value the meanings take (`readValue`
for the instructions that read, `rmwValue` for the shifts), how many operand bytes the mode consumes and what it
charges. -/
def Obligations.ResolverModesWithoutMemory : Prop :=
  ∀ (s : State) (v : Byte),
    (resolve .implicit s = (none, none) ∧ operandBytes .implicit = 0 ∧ modeCost .implicit = 0) ∧
    (resolve .accumulator s = (some s.a, none) ∧ rmwValue .accumulator s = s.a ∧
      operandBytes .accumulator = 0 ∧ modeCost .accumulator = 1) ∧
    (resolve (.immediate v) s = (some v, some (s.pc + 1)) ∧ readValue (.immediate v) s = v ∧
      operandBytes .immediate = 1 ∧ modeCost .immediate = 1) ∧
    (resolve (.relative v) s = (some v, some (s.pc + 1)) ∧ operandBytes .relative = 1 ∧ modeCost .relative = 2)

/-- In every memory mode the operand value, as `Resolve` returns it and as the meanings take it (`memValue`,
`readValue`, `rmwValue`), is the byte at the effective address. The zero-page and absolute modes: the effective
address as a number, the operand bytes, the mode cost and the page-cross penalty; a zero-page sum never leaves the
zero page. -/
def Obligations.ResolverZeroPageAndAbsoluteModes : Prop :=
  (∀ (m : MemOperand) (s : State),
    resolve (.mem m) s = (some (readByte s (memAddress m s)), some (memAddress m s)) ∧
    memValue m s = readByte s (memAddress m s) ∧ readValue (.mem m) s = readByte s (memAddress m s) ∧
    rmwValue (.mem m) s = readByte s (memAddress m s)) ∧
  ∀ (s : State) (zp : Byte) (w : Word),
    ((memAddress (.zeroPage zp) s).toNat = zp.toNat ∧ operandBytes .zeroPage = 1 ∧ modeCost .zeroPage = 2) ∧
    ((memAddress (.zeroPageX zp) s).toNat = (zp.toNat + s.x.toNat) % 256 ∧ operandBytes .zeroPageX = 1 ∧
      modeCost .zeroPageX = 3 ∧ memPenalty (.zeroPageX zp) s = 0) ∧
    ((memAddress (.zeroPageY zp) s).toNat = (zp.toNat + s.y.toNat) % 256 ∧ operandBytes .zeroPageY = 1 ∧
      modeCost .zeroPageY = 3 ∧ memPenalty (.zeroPageY zp) s = 0) ∧
    (memAddress (.absolute w) s = w ∧ operandBytes .absolute = 2 ∧ modeCost .absolute = 3) ∧
    ((memAddress (.absoluteX w) s).toNat = (w.toNat + s.x.toNat) % 65536 ∧ operandBytes .absoluteX = 2 ∧
      modeCost .absoluteX = 3 ∧
      memPenalty (.absoluteX w) s = if w.toNat / 256 = (memAddress (.absoluteX w) s).toNat / 256 then 0 else 1) ∧
    ((memAddress (.absoluteY w) s).toNat = (w.toNat + s.y.toNat) % 65536 ∧ operandBytes .absoluteY = 2 ∧
      modeCost .absoluteY = 3 ∧
      memPenalty (.absoluteY w) s = if w.toNat / 256 = (memAddress (.absoluteY w) s).toNat / 256 then 0 else 1)

/-- The pointer modes: effective address, operand bytes, mode cost and page-cross penalty. Where the high byte of a
pointer lies is the spec's decision: D6 for Indirect (log entry 9), D7 for the zero-page pointers (log entry 10). -/
def Obligations.ResolverPointerModes : Prop :=
  ∀ (s : State) (zp : Byte) (ptr : Word),
    (let z := (zp.toNat + s.x.toNat) % 256
     (memAddress (.indirectX zp) s).toNat =
       (readByte s (BitVec.ofNat 16 z)).toNat + 256 * (readByte s (BitVec.ofNat 16 ((z + 1) % 256))).toNat ∧
     operandBytes .indirectX = 1 ∧ modeCost .indirectX = 5 ∧ memPenalty (.indirectX zp) s = 0) ∧
    (let base := (readByte s (BitVec.ofNat 16 zp.toNat)).toNat +
       256 * (readByte s (BitVec.ofNat 16 ((zp.toNat + 1) % 256))).toNat
     (memAddress (.indirectY zp) s).toNat = (base + s.y.toNat) % 65536 ∧
     operandBytes .indirectY = 1 ∧ modeCost .indirectY = 4 ∧
     memPenalty (.indirectY zp) s = if base / 256 = (base + s.y.toNat) % 65536 / 256 then 0 else 1) ∧
    (resolve (.indirect ptr) s = (none, some (jumpTarget (.indirect ptr) s)) ∧
     operandBytes .indirect = 2 ∧ modeCost .indirect = 4 ∧
     (jumpTarget (.indirect ptr) s).toNat =
       (readByte s ptr).toNat + 256 * (readByte s (BitVec.ofNat 16 ((ptr.toNat + 1) % 65536))).toNat)

/-! ## Arithmetic, logic, compare (spec/41_arith_logic.md) -/

/-- ADC on every operand form: the sum with carry mod 256, C its ninth bit, V exactly when the signed sum lies
outside −128 to 127, Z and N of the result; nothing else is written. -/
def Obligations.AdcAddsWithCarryAndOverflow : Prop :=
  ∀ (o : ReadOperand) (s : State), ∃ t, exec (.adc o) s = .next t ∧
    (let m := readValue o s
     let c := (s.p.getLsbD 0).toNat
     t.a.toNat = (s.a.toNat + m.toNat + c) % 256 ∧
     t.p.getLsbD 0 = decide (255 < s.a.toNat + m.toNat + c) ∧
     t.p.getLsbD 6 = decide (s.a.toInt + m.toInt + c < -128 ∨ 127 < s.a.toInt + m.toInt + c)) ∧
    ShowsZN t.a t ∧ KeepsStatus [0, 1, 6, 7] s t ∧ t.x = s.x ∧ t.y = s.y ∧ t.sp = s.sp ∧ KeepsMemory s t ∧
    Retires (.adc o) s t

/-- SBC on every operand form: the difference with borrow mod 256, C when there is no borrow, V exactly when the
signed difference lies outside −128 to 127 (the formula is D9, log entry 12), Z and N; nothing else is written. -/
def Obligations.SbcSubtractsWithBorrowAndOverflow : Prop :=
  ∀ (o : ReadOperand) (s : State), ∃ t, exec (.sbc o) s = .next t ∧
    (let m := readValue o s
     let b := (!s.p.getLsbD 0).toNat
     t.a.toNat = (s.a.toNat + 512 - m.toNat - b) % 256 ∧
     t.p.getLsbD 0 = decide (m.toNat + b ≤ s.a.toNat) ∧
     t.p.getLsbD 6 = decide (s.a.toInt - m.toInt - b < -128 ∨ 127 < s.a.toInt - m.toInt - b)) ∧
    ShowsZN t.a t ∧ KeepsStatus [0, 1, 6, 7] s t ∧ t.x = s.x ∧ t.y = s.y ∧ t.sp = s.sp ∧ KeepsMemory s t ∧
    Retires (.sbc o) s t

/-- SBC of an operand is ADC of its complement: A and the whole status byte come out the same for operands of any
form, and for immediates the whole state does. V of SBC is D9 (log entry 12). -/
def Obligations.SbcIsAdcOfTheComplement : Prop :=
  (∀ (m : Byte) (s : State), exec (.sbc (.immediate m)) s = exec (.adc (.immediate (~~~m))) s) ∧
  ∀ (o o' : ReadOperand) (s : State), readValue o' s = ~~~readValue o s →
    ∃ t t', exec (.sbc o) s = .next t ∧ exec (.adc o') s = .next t' ∧ t.a = t'.a ∧ t.p = t'.p

/-- AND, ORA and EOR combine A with the operand bit by bit. -/
def Obligations.LogicInstructionsCombineBits : Prop :=
  ∀ (o : ReadOperand) (s : State),
    (∃ t, exec (.and o) s = .next t ∧
      (∀ k, t.a.getLsbD k = (s.a.getLsbD k && (readValue o s).getLsbD k)) ∧ WritesA t.a (.and o) s t) ∧
    (∃ t, exec (.ora o) s = .next t ∧
      (∀ k, t.a.getLsbD k = (s.a.getLsbD k || (readValue o s).getLsbD k)) ∧ WritesA t.a (.ora o) s t) ∧
    (∃ t, exec (.eor o) s = .next t ∧
      (∀ k, t.a.getLsbD k = (s.a.getLsbD k ^^ (readValue o s).getLsbD k)) ∧ WritesA t.a (.eor o) s t)

/-- BIT: Z says whether A and the operand have no bit in common, V and N are bits 6 and 7 of the operand itself; A
and memory are kept. -/
def Obligations.BitTestsOperandBits : Prop :=
  ∀ (o : MemOperand) (s : State), ∃ t, exec (.bit o) s = .next t ∧
    (t.p.getLsbD 1 = true ↔ ∀ k, k < 8 → ¬(s.a.getLsbD k = true ∧ (memValue o s).getLsbD k = true)) ∧
    t.p.getLsbD 6 = (memValue o s).getLsbD 6 ∧ t.p.getLsbD 7 = (memValue o s).getLsbD 7 ∧
    KeepsStatus [1, 6, 7] s t ∧ KeepsRegisters s t ∧ KeepsMemory s t ∧ Retires (.bit o) s t

/-- CMP, CPX and CPY compare their register with the operand as unsigned numbers. -/
def Obligations.ComparesSetUnsignedOrder : Prop :=
  ∀ (o : ReadOperand) (s : State),
    (∃ t, exec (.cmp o) s = .next t ∧ ComparesTo s.a (readValue o s) (.cmp o) s t) ∧
    (∃ t, exec (.cpx o) s = .next t ∧ ComparesTo s.x (readValue o s) (.cpx o) s t) ∧
    (∃ t, exec (.cpy o) s = .next t ∧ ComparesTo s.y (readValue o s) (.cpy o) s t)

/-! ## Shifts and rotates (spec/42_shift_rotate.md) -/

/-- ASL, LSR, ROL and ROR in every operand form: the result goes to A in Accumulator mode, else to the effective
address. -/
def Obligations.ShiftsAndRotatesWriteBack : Prop :=
  ∀ (o : RmwOperand) (s : State),
    let m := (rmwValue o s).toNat
    let c := (s.p.getLsbD 0).toNat
    (∃ t, exec (.asl o) s = .next t ∧ ShiftsTo o (2 * m % 256) (decide (128 ≤ m)) (.asl o) s t) ∧
    (∃ t, exec (.lsr o) s = .next t ∧ ShiftsTo o (m / 2) (decide (m % 2 = 1)) (.lsr o) s t) ∧
    (∃ t, exec (.rol o) s = .next t ∧ ShiftsTo o (2 * m % 256 + c) (decide (128 ≤ m)) (.rol o) s t) ∧
    (∃ t, exec (.ror o) s = .next t ∧ ShiftsTo o (m / 2 + 128 * c) (decide (m % 2 = 1)) (.ror o) s t)

/-- Nine ROLs restore A and C, and a ROR undoes a ROL: the rotate is a cycle of nine bits. -/
def Obligations.RotatesCycleNineBits : Prop :=
  (∀ s : State, ∃ t, times (exec (.rol .accumulator)) 9 s = .next t ∧ t.a = s.a ∧ t.p.getLsbD 0 = s.p.getLsbD 0) ∧
  ∀ s t : State, exec (.rol .accumulator) s = .next t →
    ∃ u, exec (.ror .accumulator) t = .next u ∧ u.a = s.a ∧ u.p.getLsbD 0 = s.p.getLsbD 0

/-! ## Increments and decrements (spec/43_incdec.md) -/

/-- INC and DEC add or subtract 1 mod 256 at the effective address, with Z and N of the result. -/
def Obligations.MemoryIncrementAndDecrement : Prop :=
  ∀ (o : MemOperand) (s : State),
    (∃ t, exec (.inc o) s = .next t ∧
      (readByte t (memAddress o s)).toNat = ((memValue o s).toNat + 1) % 256 ∧
      ShowsZN (readByte t (memAddress o s)) t ∧ KeepsStatus [1, 7] s t ∧
      KeepsMemoryBut [memAddress o s] s t ∧ KeepsRegisters s t ∧ Retires (.inc o) s t) ∧
    (∃ t, exec (.dec o) s = .next t ∧
      (readByte t (memAddress o s)).toNat = ((memValue o s).toNat + 255) % 256 ∧
      ShowsZN (readByte t (memAddress o s)) t ∧ KeepsStatus [1, 7] s t ∧
      KeepsMemoryBut [memAddress o s] s t ∧ KeepsRegisters s t ∧ Retires (.dec o) s t)

/-- INX, DEX, INY and DEY add or subtract 1 mod 256, with Z and N of the result. -/
def Obligations.RegisterIncrementAndDecrement : Prop :=
  ∀ s : State,
    (∃ t, exec .inx s = .next t ∧ t.x.toNat = (s.x.toNat + 1) % 256 ∧ WritesX t.x .inx s t) ∧
    (∃ t, exec .dex s = .next t ∧ t.x.toNat = (s.x.toNat + 255) % 256 ∧ WritesX t.x .dex s t) ∧
    (∃ t, exec .iny s = .next t ∧ t.y.toNat = (s.y.toNat + 1) % 256 ∧ WritesY t.y .iny s t) ∧
    (∃ t, exec .dey s = .next t ∧ t.y.toNat = (s.y.toNat + 255) % 256 ∧ WritesY t.y .dey s t)

/-! ## Loads, stores, transfers (spec/44_load_store_transfer.md) -/

/-- LDA, LDX and LDY load the operand, with Z and N. -/
def Obligations.LoadsTakeTheOperand : Prop :=
  ∀ (o : ReadOperand) (s : State),
    (∃ t, exec (.lda o) s = .next t ∧ WritesA (readValue o s) (.lda o) s t) ∧
    (∃ t, exec (.ldx o) s = .next t ∧ WritesX (readValue o s) (.ldx o) s t) ∧
    (∃ t, exec (.ldy o) s = .next t ∧ WritesY (readValue o s) (.ldy o) s t)

/-- STA, STX and STY store their register at the effective address and write no flag. -/
def Obligations.StoresWriteTheEffectiveAddressOnly : Prop :=
  ∀ (o : MemOperand) (s : State),
    (∃ t, exec (.sta o) s = .next t ∧ StoresAt o s.a (.sta o) s t) ∧
    (∃ t, exec (.stx o) s = .next t ∧ StoresAt o s.x (.stx o) s t) ∧
    (∃ t, exec (.sty o) s = .next t ∧ StoresAt o s.y (.sty o) s t)

/-- The six transfers; TXS alone writes no flag. -/
def Obligations.TransfersCopyTheirSource : Prop :=
  ∀ s : State,
    (∃ t, exec .tax s = .next t ∧ WritesX s.a .tax s t) ∧
    (∃ t, exec .tay s = .next t ∧ WritesY s.a .tay s t) ∧
    (∃ t, exec .tsx s = .next t ∧ WritesX s.sp .tsx s t) ∧
    (∃ t, exec .txa s = .next t ∧ WritesA s.x .txa s t) ∧
    (∃ t, exec .tya s = .next t ∧ WritesA s.y .tya s t) ∧
    (∃ t, exec .txs s = .next t ∧ t.sp = s.x ∧ t.p = s.p ∧ t.a = s.a ∧ t.x = s.x ∧ t.y = s.y ∧
      KeepsMemory s t ∧ Retires .txs s t)

/-! ## Flags and no-operations (spec/45_flags_nop.md) -/

/-- The seven flag instructions write their named flag and nothing else. -/
def Obligations.FlagInstructionsWriteTheNamedFlagOnly : Prop :=
  ∀ s : State,
    (∃ t, exec .clc s = .next t ∧ WritesStatusBit 0 false .clc s t) ∧
    (∃ t, exec .cld s = .next t ∧ WritesStatusBit 3 false .cld s t) ∧
    (∃ t, exec .cli s = .next t ∧ WritesStatusBit 2 false .cli s t) ∧
    (∃ t, exec .clv s = .next t ∧ WritesStatusBit 6 false .clv s t) ∧
    (∃ t, exec .sec s = .next t ∧ WritesStatusBit 0 true .sec s t) ∧
    (∃ t, exec .sed s = .next t ∧ WritesStatusBit 3 true .sed s t) ∧
    (∃ t, exec .sei s = .next t ∧ WritesStatusBit 2 true .sei s t)

/-- NOP and every unassigned byte only move PC one byte and charge the opcode fetch. -/
def Obligations.NopAndUnassignedBytesOnlyAdvance : Prop :=
  ∀ (s : State) (op : Byte),
    exec .nop s = .next { s with pc := BitVec.ofNat 16 (s.pc.toNat + 1), cycles := s.cycles + fetchCost } ∧
    exec (.nopUnassigned op) s = exec .nop s

/-! ## The stack (spec/46_stack.md) -/

/-- PHA pushes A and PHP pushes P exactly as it stands. -/
def Obligations.PushInstructionsStoreBelowTheTop : Prop :=
  ∀ s : State,
    (∃ t, exec .pha s = .next t ∧ Pushes s.a .pha s t) ∧
    (∃ t, exec .php s = .next t ∧ Pushes s.p .php s t)

/-- PLA pops into A, with Z and N of the popped byte. -/
def Obligations.PlaPopsIntoA : Prop :=
  ∀ s : State, ∃ t, exec .pla s = .next t ∧ t.a = topByte s ∧ ShowsZN (topByte s) t ∧ KeepsStatus [1, 7] s t ∧
    t.sp.toNat = (s.sp.toNat + 1) % 256 ∧ t.x = s.x ∧ t.y = s.y ∧ KeepsMemory s t ∧ Retires .pla s t

/-- PLP pops into P, bit 5 forced to 0 (D5, log entry 8). -/
def Obligations.PlpPopsIntoStatus : Prop :=
  ∀ s : State, ∃ t, exec .plp s = .next t ∧
    (∀ k, k < 8 → t.p.getLsbD k = (decide (k ≠ 5) && (topByte s).getLsbD k)) ∧
    t.sp.toNat = (s.sp.toNat + 1) % 256 ∧ t.a = s.a ∧ t.x = s.x ∧ t.y = s.y ∧ KeepsMemory s t ∧ Retires .plp s t

/-- A pushed byte comes back and SP with it, for every SP; two pushed bytes come back in reverse order; PLA after
PHA gives A back whatever A holds in between. -/
def Obligations.PopUndoesPush : Prop :=
  (∀ (v w : Byte) (s : State),
    popByte (push v s) = v ∧ (popState (push v s)).sp = s.sp ∧
    popByte (push w (push v s)) = w ∧ popByte (popState (push w (push v s))) = v ∧
    (popState (popState (push w (push v s)))).sp = s.sp) ∧
  ∀ (s t : State) (q : Byte), exec .pha s = .next t →
    ∃ u, exec .pla { t with a := q } = .next u ∧ u.a = s.a ∧ u.sp = s.sp

/-- The stack wraps inside $0100 to $01FF: SP = $00 pushes to $0100 and becomes $FF, SP = $FF pops from $0100 and
becomes $00, 256 pushes come back to the same SP so that the next one overwrites the first, and no push instruction
changes a byte outside the page. -/
def Obligations.StackWrapsInsideItsPage : Prop :=
  (∀ (v : Byte) (s : State), s.sp = 0x00 → (push v s).sp = 0xFF ∧ readByte (push v s) 0x0100 = v) ∧
  (∀ s : State, s.sp = 0xFF → (popState s).sp = 0x00 ∧ popByte s = readByte s 0x0100) ∧
  (∀ sp : Byte, 0x0100 ≤ (stackAddr sp).toNat ∧ (stackAddr sp).toNat ≤ 0x01FF) ∧
  (∀ (vs : List Byte) (v : Byte) (s : State), vs.length = 256 →
    (pushAll vs s).sp = s.sp ∧ readByte (push v (pushAll vs s)) (stackCell s.sp.toNat) = v) ∧
  (∀ (i : Instr) (s t : State) (addr : Word), i ∈ [.pha, .php] ∨ (∃ w, i = .jsr w) → exec i s = .next t →
    addr.toNat < 0x0100 ∨ 0x01FF < addr.toNat → readByte t addr = readByte s addr)

/-! ## Control transfer (spec/47_control_flow.md) -/

/-- The eight branches: the condition each tests, the signed displacement, and that nothing but PC and `cycles`
changes. Which addresses the page test compares is D8 (log entry 11). -/
def Obligations.BranchesAddASignedDisplacement : Prop :=
  ∀ (off : Byte) (s : State),
    exec (.bcc off) s = .next (afterBranch (!s.p.getLsbD 0) (.bcc off) off s) ∧
    exec (.bcs off) s = .next (afterBranch (s.p.getLsbD 0) (.bcs off) off s) ∧
    exec (.beq off) s = .next (afterBranch (s.p.getLsbD 1) (.beq off) off s) ∧
    exec (.bne off) s = .next (afterBranch (!s.p.getLsbD 1) (.bne off) off s) ∧
    exec (.bmi off) s = .next (afterBranch (s.p.getLsbD 7) (.bmi off) off s) ∧
    exec (.bpl off) s = .next (afterBranch (!s.p.getLsbD 7) (.bpl off) off s) ∧
    exec (.bvc off) s = .next (afterBranch (!s.p.getLsbD 6) (.bvc off) off s) ∧
    exec (.bvs off) s = .next (afterBranch (s.p.getLsbD 6) (.bvs off) off s)

/-- JMP sets PC to the operand word, or to the word the operand word points at (D6, log entry 9), and changes
nothing else but `cycles`. -/
def Obligations.JmpSetsPcToItsTarget : Prop :=
  ∀ (w : Word) (s : State),
    exec (.jmp (.absolute w)) s =
      .next { s with pc := w, cycles := s.cycles + fetchCost + 3 + ownCost (.jmp (.absolute w)) } ∧
    ∃ t, exec (.jmp (.indirect w)) s = .next t ∧
      t.pc.toNat = (readByte s w).toNat + 256 * (readByte s (BitVec.ofNat 16 (w.toNat + 1))).toNat ∧
      t.cycles = s.cycles + fetchCost + 4 + ownCost (.jmp (.indirect w)) ∧
      KeepsRegisters s t ∧ t.p = s.p ∧ KeepsMemory s t

/-- JSR pushes the address of its own last byte, high byte first, and jumps. -/
def Obligations.JsrPushesTheReturnAddress : Prop :=
  ∀ (w : Word) (s : State), ∃ t, exec (.jsr w) s = .next t ∧ t.pc = w ∧
    (readByte t (stackCell s.sp.toNat)).toNat = (s.pc.toNat + 2) % 65536 / 256 ∧
    (readByte t (stackCell (s.sp.toNat + 255))).toNat = (s.pc.toNat + 2) % 65536 % 256 ∧
    KeepsMemoryBut [stackCell s.sp.toNat, stackCell (s.sp.toNat + 255)] s t ∧
    t.sp.toNat = (s.sp.toNat + 254) % 256 ∧ t.a = s.a ∧ t.x = s.x ∧ t.y = s.y ∧ t.p = s.p ∧
    t.cycles = s.cycles + instrCost (.jsr w) s

/-- RTS pops a word, low byte first, and continues at that word plus 1. -/
def Obligations.RtsContinuesPastThePoppedWord : Prop :=
  ∀ s : State, ∃ t, exec .rts s = .next t ∧
    t.pc.toNat =
      ((readByte s (stackCell (s.sp.toNat + 1))).toNat + 256 * (readByte s (stackCell (s.sp.toNat + 2))).toNat + 1)
        % 65536 ∧
    t.sp.toNat = (s.sp.toNat + 2) % 256 ∧ t.a = s.a ∧ t.x = s.x ∧ t.y = s.y ∧ t.p = s.p ∧ KeepsMemory s t ∧
    t.cycles = s.cycles + instrCost .rts s

/-- RTI pops P, bit 5 forced to 0 (D5, log entry 8), then a word to continue at, with no 1 added. -/
def Obligations.RtiPopsStatusThenPc : Prop :=
  ∀ s : State, ∃ t, exec .rti s = .next t ∧
    (∀ k, k < 8 →
      t.p.getLsbD k = (decide (k ≠ 5) && (readByte s (stackCell (s.sp.toNat + 1))).getLsbD k)) ∧
    t.pc.toNat =
      (readByte s (stackCell (s.sp.toNat + 2))).toNat + 256 * (readByte s (stackCell (s.sp.toNat + 3))).toNat ∧
    t.sp.toNat = (s.sp.toNat + 3) % 256 ∧ t.a = s.a ∧ t.x = s.x ∧ t.y = s.y ∧ KeepsMemory s t ∧
    t.cycles = s.cycles + instrCost .rti s

/-- RTS straight after JSR continues at the instruction after the JSR with SP and every other register back, for
every SP and every PC, the wrapping ones too. -/
def Obligations.RtsUndoesJsr : Prop :=
  ∀ (w : Word) (s t : State), exec (.jsr w) s = .next t →
    ∃ u, exec .rts t = .next u ∧ u.pc.toNat = (s.pc.toNat + 3) % 65536 ∧ KeepsRegisters s u ∧ u.p = s.p ∧
      KeepsMemory t u

/-! ## BRK and the run loop (spec/48_brk_run_loop.md) -/

/-- BRK sets B and nothing else: PC is the next byte, nothing is pushed, 6 cycles are charged beside the fetch. -/
def Obligations.BrkSetsTheBreakBitOnly : Prop :=
  ∀ s : State,
    exec .brk s =
      .next { s with
        p := s.p ||| 0x10, pc := BitVec.ofNat 16 (s.pc.toNat + 1), cycles := s.cycles + fetchCost + 6 }

/-- The run loop ends exactly at the first step after which B is 1, whatever the cycle parameters: with `fuel` steps
to spend it ends in `t` if and only if some number of steps from 1 to `fuel` leads to `t`, B is 1 there, and B is 0
after every earlier step. B in the state the run starts from is not looked at. The fuel and that reading of the loop
are log entry 5 (R213, R215, D12). `step` is the step of the default parameters. -/
def Obligations.RunEndsAtTheFirstStepThatLeavesBSet : Prop :=
  (∀ s : State, step s = stepWith defaultCosts s) ∧
  ∀ (c : Costs) (fuel : Nat) (s t : State), runLoop fuel s c = some t ↔
    ∃ k, 0 < k ∧ k ≤ fuel ∧ times (stepWith c) k s = .next t ∧ t.p.getLsbD 4 = true ∧
      ∀ (j : Nat) (u : State), 0 < j → j < k → times (stepWith c) j s = .next u → u.p.getLsbD 4 = false

/-- A run that meets the byte $00 at PC ends with that BRK, whatever the cycle parameters: the registers and memory as
they were but for PC, B and the BRK's cycles. -/
def Obligations.RunEndsAtABreakByte : Prop :=
  ∀ (c : Costs) (fuel : Nat) (s : State), readByte s s.pc = 0x00 →
    ∃ t, runLoop (fuel + 1) s c = some t ∧ t.pc.toNat = (s.pc.toNat + 1) % 65536 ∧ KeepsRegisters s t ∧
      KeepsMemory s t ∧ t.p.getLsbD 4 = true ∧ KeepsStatus [4] s t ∧ t.cycles = s.cycles + c.fetch + 6

/-! ## The cycle parameters (spec/00_scope.md R4, spec/70_reset_and_hazards.md R250, R251, R253) -/

/-- FETCH_COST and OWN_COST are arguments of the machine, and `exec` and `step` are the machine at the spec's defaults
(D2, D3, log entries 2 and 3). Whatever their values, an instruction and a step charge R250's sum and leave
everything else as at the defaults, and a run ends with the same registers and memory or not at all. -/
def Obligations.CycleParametersReachCyclesOnly : Prop :=
  ((∀ (i : Instr) (s : State), exec i s = execWith defaultCosts i s) ∧
    ∀ s : State, step s = stepWith defaultCosts s) ∧
  (∀ (c : Costs) (i : Instr) (s t : State), exec i s = .next t →
    execWith c i s = .next { t with cycles := s.cycles + chargeOf c i s t }) ∧
  (∀ (c : Costs) (s t : State), step s = .next t →
    stepWith c s = .next { t with
      cycles := s.cycles +
        chargeOf c (decode (readByte s s.pc) (readByte s (s.pc + 1)) (readByte s (s.pc + 2))) s t }) ∧
  ∀ (c c' : Costs) (fuel : Nat) (s : State),
    (runLoop fuel s c).map (fun t => { t with cycles := 0 }) =
      (runLoop fuel s c').map (fun t => { t with cycles := 0 })
end

