-- ==== Sys2Proof/Laws/State.lean ====
section
/-! SUPPORT. One lemma per field per update of State, so that no proof unfolds a record update. -/

namespace Sys2Proof.Machine

/-! ### issue -/

@[simp] theorem issue_pc (i : Instr) (s : State) (c : Costs) : (issue i s c).pc = s.pc + BitVec.ofNat 16 (instrLength i) :=
  rfl
@[simp] theorem issue_sp (i : Instr) (s : State) (c : Costs) : (issue i s c).sp = s.sp := rfl
@[simp] theorem issue_a (i : Instr) (s : State) (c : Costs) : (issue i s c).a = s.a := rfl
@[simp] theorem issue_x (i : Instr) (s : State) (c : Costs) : (issue i s c).x = s.x := rfl
@[simp] theorem issue_y (i : Instr) (s : State) (c : Costs) : (issue i s c).y = s.y := rfl
@[simp] theorem issue_p (i : Instr) (s : State) (c : Costs) : (issue i s c).p = s.p := rfl
@[simp] theorem issue_cycles (i : Instr) (s : State) (c : Costs) : (issue i s c).cycles = s.cycles + instrCost i s c :=
  rfl
@[simp] theorem issue_mem (i : Instr) (s : State) (c : Costs) : (issue i s c).mem = s.mem := rfl

/-! ### writeByte -/

@[simp] theorem writeByte_pc (s : State) (addr : Word) (v : Byte) : (writeByte s addr v).pc = s.pc := rfl
@[simp] theorem writeByte_sp (s : State) (addr : Word) (v : Byte) : (writeByte s addr v).sp = s.sp := rfl
@[simp] theorem writeByte_a (s : State) (addr : Word) (v : Byte) : (writeByte s addr v).a = s.a := rfl
@[simp] theorem writeByte_x (s : State) (addr : Word) (v : Byte) : (writeByte s addr v).x = s.x := rfl
@[simp] theorem writeByte_y (s : State) (addr : Word) (v : Byte) : (writeByte s addr v).y = s.y := rfl
@[simp] theorem writeByte_p (s : State) (addr : Word) (v : Byte) : (writeByte s addr v).p = s.p := rfl
@[simp] theorem writeByte_cycles (s : State) (addr : Word) (v : Byte) : (writeByte s addr v).cycles = s.cycles := rfl
@[simp] theorem writeByte_mem (s : State) (addr : Word) (v : Byte) : (writeByte s addr v).mem = memWrite s.mem addr v :=
  rfl

/-! ### push -/

@[simp] theorem push_pc (v : Byte) (s : State) : (push v s).pc = s.pc := rfl
@[simp] theorem push_sp (v : Byte) (s : State) : (push v s).sp = s.sp - 1 := rfl
@[simp] theorem push_a (v : Byte) (s : State) : (push v s).a = s.a := rfl
@[simp] theorem push_x (v : Byte) (s : State) : (push v s).x = s.x := rfl
@[simp] theorem push_y (v : Byte) (s : State) : (push v s).y = s.y := rfl
@[simp] theorem push_p (v : Byte) (s : State) : (push v s).p = s.p := rfl
@[simp] theorem push_cycles (v : Byte) (s : State) : (push v s).cycles = s.cycles := rfl
@[simp] theorem push_mem (v : Byte) (s : State) : (push v s).mem = memWrite s.mem (stackAddr s.sp) v := rfl

/-! ### popState -/

@[simp] theorem popState_pc (s : State) : (popState s).pc = s.pc := rfl
@[simp] theorem popState_sp (s : State) : (popState s).sp = s.sp + 1 := rfl
@[simp] theorem popState_a (s : State) : (popState s).a = s.a := rfl
@[simp] theorem popState_x (s : State) : (popState s).x = s.x := rfl
@[simp] theorem popState_y (s : State) : (popState s).y = s.y := rfl
@[simp] theorem popState_p (s : State) : (popState s).p = s.p := rfl
@[simp] theorem popState_cycles (s : State) : (popState s).cycles = s.cycles := rfl
@[simp] theorem popState_mem (s : State) : (popState s).mem = s.mem := rfl

/-! ### putA -/

@[simp] theorem putA_pc (v : Byte) (s : State) : (putA v s).pc = s.pc := rfl
@[simp] theorem putA_sp (v : Byte) (s : State) : (putA v s).sp = s.sp := rfl
@[simp] theorem putA_a (v : Byte) (s : State) : (putA v s).a = v := rfl
@[simp] theorem putA_x (v : Byte) (s : State) : (putA v s).x = s.x := rfl
@[simp] theorem putA_y (v : Byte) (s : State) : (putA v s).y = s.y := rfl
@[simp] theorem putA_p (v : Byte) (s : State) : (putA v s).p = setZN v s.p := rfl
@[simp] theorem putA_cycles (v : Byte) (s : State) : (putA v s).cycles = s.cycles := rfl
@[simp] theorem putA_mem (v : Byte) (s : State) : (putA v s).mem = s.mem := rfl

/-! ### putX -/

@[simp] theorem putX_pc (v : Byte) (s : State) : (putX v s).pc = s.pc := rfl
@[simp] theorem putX_sp (v : Byte) (s : State) : (putX v s).sp = s.sp := rfl
@[simp] theorem putX_a (v : Byte) (s : State) : (putX v s).a = s.a := rfl
@[simp] theorem putX_x (v : Byte) (s : State) : (putX v s).x = v := rfl
@[simp] theorem putX_y (v : Byte) (s : State) : (putX v s).y = s.y := rfl
@[simp] theorem putX_p (v : Byte) (s : State) : (putX v s).p = setZN v s.p := rfl
@[simp] theorem putX_cycles (v : Byte) (s : State) : (putX v s).cycles = s.cycles := rfl
@[simp] theorem putX_mem (v : Byte) (s : State) : (putX v s).mem = s.mem := rfl

/-! ### putY -/

@[simp] theorem putY_pc (v : Byte) (s : State) : (putY v s).pc = s.pc := rfl
@[simp] theorem putY_sp (v : Byte) (s : State) : (putY v s).sp = s.sp := rfl
@[simp] theorem putY_a (v : Byte) (s : State) : (putY v s).a = s.a := rfl
@[simp] theorem putY_x (v : Byte) (s : State) : (putY v s).x = s.x := rfl
@[simp] theorem putY_y (v : Byte) (s : State) : (putY v s).y = v := rfl
@[simp] theorem putY_p (v : Byte) (s : State) : (putY v s).p = setZN v s.p := rfl
@[simp] theorem putY_cycles (v : Byte) (s : State) : (putY v s).cycles = s.cycles := rfl
@[simp] theorem putY_mem (v : Byte) (s : State) : (putY v s).mem = s.mem := rfl

/-! ### putFlag -/

@[simp] theorem putFlag_pc (f : Flag) (on : Bool) (s : State) : (putFlag f on s).pc = s.pc := rfl
@[simp] theorem putFlag_sp (f : Flag) (on : Bool) (s : State) : (putFlag f on s).sp = s.sp := rfl
@[simp] theorem putFlag_a (f : Flag) (on : Bool) (s : State) : (putFlag f on s).a = s.a := rfl
@[simp] theorem putFlag_x (f : Flag) (on : Bool) (s : State) : (putFlag f on s).x = s.x := rfl
@[simp] theorem putFlag_y (f : Flag) (on : Bool) (s : State) : (putFlag f on s).y = s.y := rfl
@[simp] theorem putFlag_p (f : Flag) (on : Bool) (s : State) : (putFlag f on s).p = setFlag f on s.p := rfl
@[simp] theorem putFlag_cycles (f : Flag) (on : Bool) (s : State) : (putFlag f on s).cycles = s.cycles := rfl
@[simp] theorem putFlag_mem (f : Flag) (on : Bool) (s : State) : (putFlag f on s).mem = s.mem := rfl

/-! ### addWithCarry -/

@[simp] theorem addWithCarry_pc (m : Byte) (s : State) : (addWithCarry m s).pc = s.pc := rfl
@[simp] theorem addWithCarry_sp (m : Byte) (s : State) : (addWithCarry m s).sp = s.sp := rfl
@[simp] theorem addWithCarry_a (m : Byte) (s : State) : (addWithCarry m s).a = low8 (adcSum s.a m (flag .c s)) := rfl
@[simp] theorem addWithCarry_x (m : Byte) (s : State) : (addWithCarry m s).x = s.x := rfl
@[simp] theorem addWithCarry_y (m : Byte) (s : State) : (addWithCarry m s).y = s.y := rfl
@[simp] theorem addWithCarry_p (m : Byte) (s : State) : (addWithCarry m s).p = 
      arithFlags (adcCarry (adcSum s.a m (flag .c s))) (adcOverflow s.a m (low8 (adcSum s.a m (flag .c s))))
        (low8 (adcSum s.a m (flag .c s))) s.p := rfl
@[simp] theorem addWithCarry_cycles (m : Byte) (s : State) : (addWithCarry m s).cycles = s.cycles := rfl
@[simp] theorem addWithCarry_mem (m : Byte) (s : State) : (addWithCarry m s).mem = s.mem := rfl

/-! ### subWithBorrow -/

@[simp] theorem subWithBorrow_pc (m : Byte) (s : State) : (subWithBorrow m s).pc = s.pc := rfl
@[simp] theorem subWithBorrow_sp (m : Byte) (s : State) : (subWithBorrow m s).sp = s.sp := rfl
@[simp] theorem subWithBorrow_a (m : Byte) (s : State) : (subWithBorrow m s).a = low8 (sbcDiff s.a m (flag .c s)) :=
  rfl
@[simp] theorem subWithBorrow_x (m : Byte) (s : State) : (subWithBorrow m s).x = s.x := rfl
@[simp] theorem subWithBorrow_y (m : Byte) (s : State) : (subWithBorrow m s).y = s.y := rfl
@[simp] theorem subWithBorrow_p (m : Byte) (s : State) : (subWithBorrow m s).p = 
      arithFlags (noBorrow (sbcDiff s.a m (flag .c s))) (sbcOverflow s.a m (low8 (sbcDiff s.a m (flag .c s))))
        (low8 (sbcDiff s.a m (flag .c s))) s.p := rfl
@[simp] theorem subWithBorrow_cycles (m : Byte) (s : State) : (subWithBorrow m s).cycles = s.cycles := rfl
@[simp] theorem subWithBorrow_mem (m : Byte) (s : State) : (subWithBorrow m s).mem = s.mem := rfl

/-! ### compareWith -/

@[simp] theorem compareWith_pc (r m : Byte) (s : State) : (compareWith r m s).pc = s.pc := rfl
@[simp] theorem compareWith_sp (r m : Byte) (s : State) : (compareWith r m s).sp = s.sp := rfl
@[simp] theorem compareWith_a (r m : Byte) (s : State) : (compareWith r m s).a = s.a := rfl
@[simp] theorem compareWith_x (r m : Byte) (s : State) : (compareWith r m s).x = s.x := rfl
@[simp] theorem compareWith_y (r m : Byte) (s : State) : (compareWith r m s).y = s.y := rfl
@[simp] theorem compareWith_p (r m : Byte) (s : State) : (compareWith r m s).p = compareFlags r m s.p := rfl
@[simp] theorem compareWith_cycles (r m : Byte) (s : State) : (compareWith r m s).cycles = s.cycles := rfl
@[simp] theorem compareWith_mem (r m : Byte) (s : State) : (compareWith r m s).mem = s.mem := rfl

/-! ### storeResult -/

@[simp] theorem storeResult_pc (m : MemOperand) (r : Byte) (s : State) : (storeResult m r s).pc = s.pc := rfl
@[simp] theorem storeResult_sp (m : MemOperand) (r : Byte) (s : State) : (storeResult m r s).sp = s.sp := rfl
@[simp] theorem storeResult_a (m : MemOperand) (r : Byte) (s : State) : (storeResult m r s).a = s.a := rfl
@[simp] theorem storeResult_x (m : MemOperand) (r : Byte) (s : State) : (storeResult m r s).x = s.x := rfl
@[simp] theorem storeResult_y (m : MemOperand) (r : Byte) (s : State) : (storeResult m r s).y = s.y := rfl
@[simp] theorem storeResult_p (m : MemOperand) (r : Byte) (s : State) : (storeResult m r s).p = setZN r s.p := rfl
@[simp] theorem storeResult_cycles (m : MemOperand) (r : Byte) (s : State) : (storeResult m r s).cycles = s.cycles :=
  rfl
@[simp] theorem storeResult_mem (m : MemOperand) (r : Byte) (s : State) : (storeResult m r s).mem = memWrite s.mem (memAddress m s) r :=
  rfl

/-! ### pushWord -/

@[simp] theorem pushWord_pc (w : Word) (s : State) : (pushWord w s).pc = s.pc := rfl
@[simp] theorem pushWord_sp (w : Word) (s : State) : (pushWord w s).sp = s.sp - 1 - 1 := rfl
@[simp] theorem pushWord_a (w : Word) (s : State) : (pushWord w s).a = s.a := rfl
@[simp] theorem pushWord_x (w : Word) (s : State) : (pushWord w s).x = s.x := rfl
@[simp] theorem pushWord_y (w : Word) (s : State) : (pushWord w s).y = s.y := rfl
@[simp] theorem pushWord_p (w : Word) (s : State) : (pushWord w s).p = s.p := rfl
@[simp] theorem pushWord_cycles (w : Word) (s : State) : (pushWord w s).cycles = s.cycles := rfl
@[simp] theorem pushWord_mem (w : Word) (s : State) : (pushWord w s).mem = 
      memWrite (memWrite s.mem (stackAddr s.sp) (highByte w)) (stackAddr (s.sp - 1)) (lowByte w) := rfl

/-! ### resetCore -/

@[simp] theorem resetCore_pc (s : State) : (resetCore s).pc = Config.entryPoint := rfl
@[simp] theorem resetCore_sp (s : State) : (resetCore s).sp = Config.resetSp := rfl
@[simp] theorem resetCore_a (s : State) : (resetCore s).a = 0 := rfl
@[simp] theorem resetCore_x (s : State) : (resetCore s).x = 0 := rfl
@[simp] theorem resetCore_y (s : State) : (resetCore s).y = 0 := rfl
@[simp] theorem resetCore_p (s : State) : (resetCore s).p = 0 := rfl
@[simp] theorem resetCore_cycles (s : State) : (resetCore s).cycles = s.cycles + Config.resetCycles := rfl
@[simp] theorem resetCore_mem (s : State) : (resetCore s).mem = s.mem := rfl

/-! ### memReset -/

@[simp] theorem memReset_pc (s : State) : (memReset s).pc = s.pc := rfl
@[simp] theorem memReset_sp (s : State) : (memReset s).sp = s.sp := rfl
@[simp] theorem memReset_a (s : State) : (memReset s).a = s.a := rfl
@[simp] theorem memReset_x (s : State) : (memReset s).x = s.x := rfl
@[simp] theorem memReset_y (s : State) : (memReset s).y = s.y := rfl
@[simp] theorem memReset_p (s : State) : (memReset s).p = s.p := rfl
@[simp] theorem memReset_cycles (s : State) : (memReset s).cycles = s.cycles := rfl
@[simp] theorem memReset_mem (s : State) : (memReset s).mem = [] := rfl

/-! ### setPc -/

@[simp] theorem setPc_pc (s : State) (w : Word) : (setPc s w).pc = w := rfl
@[simp] theorem setPc_sp (s : State) (w : Word) : (setPc s w).sp = s.sp := rfl
@[simp] theorem setPc_a (s : State) (w : Word) : (setPc s w).a = s.a := rfl
@[simp] theorem setPc_x (s : State) (w : Word) : (setPc s w).x = s.x := rfl
@[simp] theorem setPc_y (s : State) (w : Word) : (setPc s w).y = s.y := rfl
@[simp] theorem setPc_p (s : State) (w : Word) : (setPc s w).p = s.p := rfl
@[simp] theorem setPc_cycles (s : State) (w : Word) : (setPc s w).cycles = s.cycles := rfl
@[simp] theorem setPc_mem (s : State) (w : Word) : (setPc s w).mem = s.mem := rfl

/-! ### writeBack -/

@[simp] theorem writeBack_pc (o : RmwOperand) (c : Bool) (r : Byte) (s : State) :
    (writeBack o c r s).pc = s.pc := by cases o <;> rfl
@[simp] theorem writeBack_sp (o : RmwOperand) (c : Bool) (r : Byte) (s : State) :
    (writeBack o c r s).sp = s.sp := by cases o <;> rfl
@[simp] theorem writeBack_x (o : RmwOperand) (c : Bool) (r : Byte) (s : State) :
    (writeBack o c r s).x = s.x := by cases o <;> rfl
@[simp] theorem writeBack_y (o : RmwOperand) (c : Bool) (r : Byte) (s : State) :
    (writeBack o c r s).y = s.y := by cases o <;> rfl
@[simp] theorem writeBack_cycles (o : RmwOperand) (c : Bool) (r : Byte) (s : State) :
    (writeBack o c r s).cycles = s.cycles := by cases o <;> rfl
@[simp] theorem writeBack_p (o : RmwOperand) (c : Bool) (r : Byte) (s : State) :
    (writeBack o c r s).p = shiftFlags c r s.p := by cases o <;> rfl
@[simp] theorem writeBack_accumulator_a (c : Bool) (r : Byte) (s : State) :
    (writeBack .accumulator c r s).a = r := rfl
@[simp] theorem writeBack_accumulator_mem (c : Bool) (r : Byte) (s : State) :
    (writeBack .accumulator c r s).mem = s.mem := rfl
@[simp] theorem writeBack_mem_a (m : MemOperand) (c : Bool) (r : Byte) (s : State) :
    (writeBack (.mem m) c r s).a = s.a := rfl
@[simp] theorem writeBack_mem_mem (m : MemOperand) (c : Bool) (r : Byte) (s : State) :
    (writeBack (.mem m) c r s).mem = memWrite s.mem (memAddress m s) r := by cases m <;> rfl

/-! ### branch -/

@[simp] theorem branch_not_taken (off : Byte) (s : State) : branch false off s = s := rfl
@[simp] theorem branch_taken_pc (off : Byte) (s : State) : (branch true off s).pc = s.pc + sext16 off := rfl
@[simp] theorem branch_taken_cycles (off : Byte) (s : State) :
    (branch true off s).cycles = s.cycles + 1 + (pageCross s.pc (s.pc + sext16 off)).toNat := rfl
@[simp] theorem branch_sp (c : Bool) (off : Byte) (s : State) : (branch c off s).sp = s.sp := by
  cases c <;> rfl
@[simp] theorem branch_a (c : Bool) (off : Byte) (s : State) : (branch c off s).a = s.a := by
  cases c <;> rfl
@[simp] theorem branch_x (c : Bool) (off : Byte) (s : State) : (branch c off s).x = s.x := by
  cases c <;> rfl
@[simp] theorem branch_y (c : Bool) (off : Byte) (s : State) : (branch c off s).y = s.y := by
  cases c <;> rfl
@[simp] theorem branch_p (c : Bool) (off : Byte) (s : State) : (branch c off s).p = s.p := by
  cases c <;> rfl
@[simp] theorem branch_mem (c : Bool) (off : Byte) (s : State) : (branch c off s).mem = s.mem := by
  cases c <;> rfl

/-! ### Fetch and resolver leave what an operation reads as it was -/

@[simp] theorem flag_issue (f : Flag) (i : Instr) (s : State) (c : Costs) : flag f (issue i s c) = flag f s := rfl
@[simp] theorem readByte_issue (i : Instr) (s : State) (addr : Word) (c : Costs) :
    readByte (issue i s c) addr = readByte s addr := rfl
@[simp] theorem memAddress_issue (m : MemOperand) (i : Instr) (s : State) (c : Costs) :
    memAddress m (issue i s c) = memAddress m s := by cases m <;> rfl
@[simp] theorem memValue_issue (m : MemOperand) (i : Instr) (s : State) (c : Costs) :
    memValue m (issue i s c) = memValue m s := by cases m <;> rfl
@[simp] theorem popByte_issue (i : Instr) (s : State) (c : Costs) : popByte (issue i s c) = popByte s := rfl

/-- The state after construction is the created state after one reset (R240). -/
theorem reset_eq_resetCore_created : State.reset = resetCore State.created := rfl

end Sys2Proof.Machine
end

