-- ==== Sys2Proof/Laws/Flags.lean ====
section
/-! SUPPORT. Every bit of the status byte after each flag operation. -/

namespace Sys2Proof.Machine

theorem flagBit_lt (f : Flag) : flagBit f < 8 := by cases f <;> decide

/-- The bits of a status byte after one flag is written. -/
theorem getLsbD_setFlag (f : Flag) (on : Bool) (p : Byte) {i : Nat} (hi : i < 8) :
    (setFlag f on p).getLsbD i = if i = flagBit f then on else p.getLsbD i := by
  have hmask : ∀ j, j < 8 → (flagMask f).getLsbD j = decide (j = flagBit f) := by
    cases f <;> decide
  have h := hmask i hi
  cases on
  · simp only [setFlag, Bool.false_eq_true, if_false, BitVec.getLsbD_and, BitVec.getLsbD_not, h, hi]
    by_cases hif : i = flagBit f <;> simp only [hif, decide_true, decide_false, if_true, if_false] <;> simp
  · simp only [setFlag, if_true, BitVec.getLsbD_or, h]
    by_cases hif : i = flagBit f <;> simp only [hif, decide_true, decide_false, if_true, if_false] <;> simp

theorem getFlag_setFlag (f g : Flag) (on : Bool) (p : Byte) :
    getFlag g (setFlag f on p) = if g = f then on else getFlag g p := by
  have hinj : flagBit g = flagBit f ↔ g = f := by cases f <;> cases g <;> decide
  rw [getFlag, getLsbD_setFlag f on p (flagBit_lt g)]
  simp only [hinj, getFlag]

/-- The bits of a status byte after `SetZN` (R23). -/
theorem getLsbD_setZN (v p : Byte) {i : Nat} (hi : i < 8) :
    (setZN v p).getLsbD i = if i = 7 then v.getLsbD 7 else if i = 1 then (v == 0) else p.getLsbD i := by
  simp only [setZN, getLsbD_setFlag _ _ _ hi, flagBit]
  rfl

/-- The bits of a status byte after an add or subtract (R101, R102). -/
theorem getLsbD_arithFlags (c v : Bool) (r p : Byte) {i : Nat} (hi : i < 8) :
    (arithFlags c v r p).getLsbD i =
      if i = 7 then r.getLsbD 7 else if i = 1 then (r == 0) else if i = 6 then v else if i = 0 then c
      else p.getLsbD i := by
  simp only [arithFlags, getLsbD_setZN _ _ hi, getLsbD_setFlag _ _ _ hi, flagBit]
  rfl

/-- The bits of a status byte after a compare (R107). -/
theorem getLsbD_compareFlags (r m p : Byte) {i : Nat} (hi : i < 8) :
    (compareFlags r m p).getLsbD i =
      if i = 7 then (low8 (cmpDiff r m)).getLsbD 7 else if i = 1 then (low8 (cmpDiff r m) == 0)
      else if i = 0 then noBorrow (cmpDiff r m) else p.getLsbD i := by
  simp only [compareFlags, getLsbD_setZN _ _ hi, getLsbD_setFlag _ _ _ hi, flagBit]
  rfl

/-- The bits of a status byte after BIT (R106). -/
theorem getLsbD_bitFlags (a m p : Byte) {i : Nat} (hi : i < 8) :
    (bitFlags a m p).getLsbD i =
      if i = 7 then m.getLsbD 7 else if i = 6 then m.getLsbD 6 else if i = 1 then (a &&& m) == 0
      else p.getLsbD i := by
  simp only [bitFlags, getLsbD_setFlag _ _ _ hi, flagBit]
  rfl

/-- The bits of a status byte after a shift or rotate (R121 to R124). -/
theorem getLsbD_shiftFlags (c : Bool) (r p : Byte) {i : Nat} (hi : i < 8) :
    (shiftFlags c r p).getLsbD i =
      if i = 7 then r.getLsbD 7 else if i = 1 then (r == 0) else if i = 0 then c else p.getLsbD i := by
  simp only [shiftFlags, getLsbD_setZN _ _ hi, getLsbD_setFlag _ _ _ hi, flagBit]
  rfl

/-- The bits of the status byte that PLP and RTI load (R181, R202). -/
theorem getLsbD_loadStatus (b : Byte) {i : Nat} (hi : i < 8) :
    (loadStatus b).getLsbD i = if i = 5 then false else b.getLsbD i := by
  have hmask : ∀ j, j < 8 → (0xDF#8).getLsbD j = decide (j ≠ 5) := by decide
  by_cases h : i = 5 <;> simp [loadStatus, hmask i hi, h]

/-! ## The same, in simp's normal form for a bit inside the width -/

@[simp] theorem getElem_setFlag (f : Flag) (on : Bool) (p : Byte) (i : Nat) (hi : i < 8) :
    (setFlag f on p)[i] = if i = flagBit f then on else p[i] := by
  simpa only [BitVec.getLsbD_eq_getElem hi] using getLsbD_setFlag f on p hi

@[simp] theorem getElem_setZN (v p : Byte) (i : Nat) (hi : i < 8) :
    (setZN v p)[i] = if i = 7 then v.getLsbD 7 else if i = 1 then (v == 0) else p[i] := by
  simpa only [BitVec.getLsbD_eq_getElem hi] using getLsbD_setZN v p hi

@[simp] theorem getElem_arithFlags (c v : Bool) (r p : Byte) (i : Nat) (hi : i < 8) :
    (arithFlags c v r p)[i] =
      if i = 7 then r.getLsbD 7 else if i = 1 then (r == 0) else if i = 6 then v else if i = 0 then c
      else p[i] := by
  simpa only [BitVec.getLsbD_eq_getElem hi] using getLsbD_arithFlags c v r p hi

@[simp] theorem getElem_compareFlags (r m p : Byte) (i : Nat) (hi : i < 8) :
    (compareFlags r m p)[i] =
      if i = 7 then (low8 (cmpDiff r m)).getLsbD 7 else if i = 1 then (low8 (cmpDiff r m) == 0)
      else if i = 0 then noBorrow (cmpDiff r m) else p[i] := by
  simpa only [BitVec.getLsbD_eq_getElem hi] using getLsbD_compareFlags r m p hi

@[simp] theorem getElem_bitFlags (a m p : Byte) (i : Nat) (hi : i < 8) :
    (bitFlags a m p)[i] =
      if i = 7 then m.getLsbD 7 else if i = 6 then m.getLsbD 6 else if i = 1 then (a &&& m) == 0
      else p[i] := by
  simpa only [BitVec.getLsbD_eq_getElem hi] using getLsbD_bitFlags a m p hi

@[simp] theorem getElem_shiftFlags (c : Bool) (r p : Byte) (i : Nat) (hi : i < 8) :
    (shiftFlags c r p)[i] =
      if i = 7 then r.getLsbD 7 else if i = 1 then (r == 0) else if i = 0 then c else p[i] := by
  simpa only [BitVec.getLsbD_eq_getElem hi] using getLsbD_shiftFlags c r p hi

@[simp] theorem getElem_loadStatus (b : Byte) (i : Nat) (hi : i < 8) :
    (loadStatus b)[i] = if i = 5 then false else b[i] := by
  simpa only [BitVec.getLsbD_eq_getElem hi] using getLsbD_loadStatus b hi

end Sys2Proof.Machine
end

