-- ==== Sys2Proof/Laws/Memory.lean ====
section
/-! SUPPORT. What each memory and stack operation does: one lemma about reads, one about the canonical form. -/

namespace Sys2Proof.Machine

/-! ## Cells -/

theorem lookupCell_eraseCell (k j : Nat) (m : Memory) :
    lookupCell (eraseCell k m) j = if j = k then Config.initByte else lookupCell m j := by
  induction m with
  | nil => simp [eraseCell, lookupCell]
  | cons c rest ih =>
    obtain ⟨i, w⟩ := c
    by_cases hik : i = k
    · rw [eraseCell, if_pos hik, ih]
      by_cases hj : j = k
      · simp [hj]
      · simp [hj, lookupCell, show i ≠ j by omega]
    · rw [eraseCell, if_neg hik, lookupCell, lookupCell, ih]
      by_cases hij : i = j
      · simp [hij, show j ≠ k by omega]
      · simp [hij]

theorem lookupCell_insertCell_eraseCell (k j : Nat) (v : Byte) (m : Memory) :
    lookupCell (insertCell k v (eraseCell k m)) j = if j = k then v else lookupCell m j := by
  induction m with
  | nil =>
    by_cases hj : j = k
    · simp [eraseCell, insertCell, lookupCell, hj]
    · simp [eraseCell, insertCell, lookupCell, hj, show k ≠ j by omega]
  | cons c rest ih =>
    obtain ⟨i, w⟩ := c
    by_cases hik : i = k
    · rw [eraseCell, if_pos hik, ih]
      by_cases hj : j = k
      · simp [hj]
      · simp [hj, lookupCell, show i ≠ j by omega]
    · rw [eraseCell, if_neg hik, insertCell]
      by_cases hki : k < i
      · rw [if_pos hki]
        by_cases hj : j = k
        · simp [lookupCell, hj]
        · simp [lookupCell, hj, show k ≠ j by omega, lookupCell_eraseCell]
      · rw [if_neg hki, lookupCell, lookupCell, ih]
        by_cases hij : i = j
        · simp [hij, show j ≠ k by omega]
        · simp [hij]

theorem cellsFrom_mono {b b' : Nat} (h : b' ≤ b) {m : Memory} (hm : cellsFrom b m = true) :
    cellsFrom b' m = true := by
  cases m with
  | nil => rfl
  | cons c rest =>
    obtain ⟨k, v⟩ := c
    simp only [cellsFrom, Bool.and_eq_true, decide_eq_true_eq] at hm ⊢
    exact ⟨⟨⟨by omega, hm.1.1.2⟩, hm.1.2⟩, hm.2⟩

theorem cellsFrom_eraseCell (k : Nat) {b : Nat} {m : Memory} (hm : cellsFrom b m = true) :
    cellsFrom b (eraseCell k m) = true := by
  induction m generalizing b with
  | nil => rfl
  | cons c rest ih =>
    obtain ⟨j, w⟩ := c
    simp only [cellsFrom, Bool.and_eq_true, decide_eq_true_eq] at hm
    have hrest := ih hm.2
    by_cases hjk : j = k
    · rw [eraseCell, if_pos hjk]
      exact cellsFrom_mono (by omega) hrest
    · rw [eraseCell, if_neg hjk]
      simp only [cellsFrom, Bool.and_eq_true, decide_eq_true_eq]
      exact ⟨hm.1, hrest⟩

theorem cellsFrom_insertCell_eraseCell {k b : Nat} {v : Byte} {m : Memory} (hb : b ≤ k)
    (hk : k < Config.memorySize) (hv : v ≠ Config.initByte) (hm : cellsFrom b m = true) :
    cellsFrom b (insertCell k v (eraseCell k m)) = true := by
  induction m generalizing b with
  | nil => simp [eraseCell, insertCell, cellsFrom, hb, hk, hv]
  | cons c rest ih =>
    obtain ⟨j, w⟩ := c
    simp only [cellsFrom, Bool.and_eq_true, decide_eq_true_eq] at hm
    by_cases hjk : j = k
    · rw [eraseCell, if_pos hjk]
      exact ih hb (cellsFrom_mono (by omega) hm.2)
    · rw [eraseCell, if_neg hjk, insertCell]
      by_cases hkj : k < j
      · rw [if_pos hkj]
        simp only [cellsFrom, Bool.and_eq_true, decide_eq_true_eq, bne_iff_ne, ne_eq]
        exact ⟨⟨⟨hb, hk⟩, hv⟩, ⟨⟨by omega, hm.1.1.2⟩, by simpa using hm.1.2⟩, cellsFrom_eraseCell k hm.2⟩
      · rw [if_neg hkj]
        simp only [cellsFrom, Bool.and_eq_true, decide_eq_true_eq]
        exact ⟨hm.1, ih (by omega) hm.2⟩

/-! ## Reads after writes (R41) -/

theorem memRead_memWrite (m : Memory) (addr other : Word) (v : Byte) :
    memRead (memWrite m addr v) other = if other = addr then v else memRead m other := by
  have hiff : (other.toNat = addr.toNat) = (other = addr) := by
    rw [BitVec.toNat_inj]
  by_cases hv : v = Config.initByte
  · simp only [memRead, memWrite, hv, if_true, lookupCell_eraseCell, hiff]
  · simp only [memRead, memWrite, hv, if_false, lookupCell_insertCell_eraseCell, hiff]

theorem readByte_writeByte (s : State) (addr other : Word) (v : Byte) :
    readByte (writeByte s addr v) other = if other = addr then v else readByte s other :=
  memRead_memWrite s.mem addr other v

theorem readByte_push (v : Byte) (s : State) (addr : Word) :
    readByte (push v s) addr = if addr = stackAddr s.sp then v else readByte s addr :=
  memRead_memWrite s.mem (stackAddr s.sp) addr v

/-! ## The canonical form is kept -/

theorem memWrite_wf {m : Memory} (hm : m.wf = true) (addr : Word) (v : Byte) : (memWrite m addr v).wf = true := by
  unfold memWrite
  by_cases hv : v = Config.initByte
  · rw [if_pos hv]
    exact cellsFrom_eraseCell _ hm
  · rw [if_neg hv]
    exact cellsFrom_insertCell_eraseCell (Nat.zero_le _) (by simpa [Config.memorySize] using addr.isLt) hv hm

theorem writeByte_wf {s : State} (hs : s.mem.wf = true) (addr : Word) (v : Byte) :
    (writeByte s addr v).mem.wf = true := memWrite_wf hs addr v

theorem push_wf {s : State} (hs : s.mem.wf = true) (v : Byte) : (push v s).mem.wf = true :=
  memWrite_wf hs (stackAddr s.sp) v

theorem pushWord_wf {s : State} (hs : s.mem.wf = true) (w : Word) : (pushWord w s).mem.wf = true :=
  push_wf (push_wf hs (highByte w)) (lowByte w)

theorem storeResult_wf {s : State} (hs : s.mem.wf = true) (m : MemOperand) (r : Byte) :
    (storeResult m r s).mem.wf = true := memWrite_wf hs (memAddress m s) r

theorem writeBack_wf {s : State} (hs : s.mem.wf = true) (o : RmwOperand) (c : Bool) (r : Byte) :
    (writeBack o c r s).mem.wf = true := by
  cases o with
  | accumulator => exact hs
  | mem m => rw [writeBack_mem_mem]; exact memWrite_wf hs _ r

theorem withFetchWord_wf {s : State} (hs : s.mem.wf = true) (nbits w : Nat) :
    (s.withFetchWord nbits w).mem.wf = true :=
  writeByte_wf (writeByte_wf (writeByte_wf hs _ _) _ _) _ _

theorem memReset_wf (s : State) : (memReset s).mem.wf = true := rfl

theorem reset_mem_wf : State.reset.mem.wf = true := rfl

/-! ## The stack's addresses -/

theorem stackAddr_toNat (sp : Byte) : (stackAddr sp).toNat = 256 + sp.toNat := by
  have h := sp.isLt
  simp only [stackAddr, zext16, Config.stackPage, BitVec.toNat_add, BitVec.toNat_setWidth, BitVec.toNat_ofNat]
  omega

theorem stackAddr_inj {sp sp' : Byte} : stackAddr sp = stackAddr sp' ↔ sp = sp' := by
  constructor
  · intro h
    have h' := congrArg BitVec.toNat h
    rw [stackAddr_toNat, stackAddr_toNat] at h'
    exact BitVec.eq_of_toNat_eq (by omega)
  · rintro rfl; rfl

/-- The bytes of a word assemble to the word. -/
@[simp] theorem wordOf_lowByte_highByte (w : Word) : wordOf (lowByte w) (highByte w) = w := by
  simp only [wordOf, lowByte, highByte]
  ext i hi
  simp only [BitVec.getElem_append, BitVec.getElem_extractLsb']
  split <;> simp_all [BitVec.getLsbD_eq_getElem]

end Sys2Proof.Machine
end

