-- ==== Sys2Proof/Laws/PerInstr.lean ====
section
/-! SUPPORT. The per-instruction family EncodedLength: an instruction's encoding has exactly the bytes its mode
gives it (spec/30_encoding.md R60, R61). -/

namespace Sys2Proof.Laws

/-- The operand bytes an encoder lays down are as many as the mode has (R61). -/
theorem operandList_length (o : Operand) : (operandList o).length = operandBytes o.mode := by
  cases o with
  | mem m => cases m <;> rfl
  | _ => rfl

/-- Every encoding is an opcode byte and the operand bytes of the mode. -/
theorem encode_length {i : Instr} {bs : List Byte} (h : encode i = some bs) : bs.length = instrLength i := by
  obtain ⟨op, -, rfl⟩ := Option.map_eq_some_iff.mp h
  rw [List.length_cons, operandList_length, instrLength, Instr.mode, Nat.add_comm]

namespace EncodedLength

/-- The encoding of `i`, where it has one, is `instrLength i` bytes long. -/
def Statement (i : Instr) : Prop := ∀ bs, encode i = some bs → bs.length = instrLength i

theorem adc (o : ReadOperand) : Statement (.adc o) := fun _ h => encode_length h
theorem sbc (o : ReadOperand) : Statement (.sbc o) := fun _ h => encode_length h
theorem and (o : ReadOperand) : Statement (.and o) := fun _ h => encode_length h
theorem ora (o : ReadOperand) : Statement (.ora o) := fun _ h => encode_length h
theorem eor (o : ReadOperand) : Statement (.eor o) := fun _ h => encode_length h
theorem bit (o : MemOperand) : Statement (.bit o) := fun _ h => encode_length h
theorem cmp (o : ReadOperand) : Statement (.cmp o) := fun _ h => encode_length h
theorem cpx (o : ReadOperand) : Statement (.cpx o) := fun _ h => encode_length h
theorem cpy (o : ReadOperand) : Statement (.cpy o) := fun _ h => encode_length h
theorem asl (o : RmwOperand) : Statement (.asl o) := fun _ h => encode_length h
theorem lsr (o : RmwOperand) : Statement (.lsr o) := fun _ h => encode_length h
theorem rol (o : RmwOperand) : Statement (.rol o) := fun _ h => encode_length h
theorem ror (o : RmwOperand) : Statement (.ror o) := fun _ h => encode_length h
theorem inc (o : MemOperand) : Statement (.inc o) := fun _ h => encode_length h
theorem dec (o : MemOperand) : Statement (.dec o) := fun _ h => encode_length h
theorem inx : Statement .inx := fun _ h => encode_length h
theorem dex : Statement .dex := fun _ h => encode_length h
theorem iny : Statement .iny := fun _ h => encode_length h
theorem dey : Statement .dey := fun _ h => encode_length h
theorem lda (o : ReadOperand) : Statement (.lda o) := fun _ h => encode_length h
theorem ldx (o : ReadOperand) : Statement (.ldx o) := fun _ h => encode_length h
theorem ldy (o : ReadOperand) : Statement (.ldy o) := fun _ h => encode_length h
theorem sta (o : MemOperand) : Statement (.sta o) := fun _ h => encode_length h
theorem stx (o : MemOperand) : Statement (.stx o) := fun _ h => encode_length h
theorem sty (o : MemOperand) : Statement (.sty o) := fun _ h => encode_length h
theorem tax : Statement .tax := fun _ h => encode_length h
theorem tay : Statement .tay := fun _ h => encode_length h
theorem tsx : Statement .tsx := fun _ h => encode_length h
theorem txa : Statement .txa := fun _ h => encode_length h
theorem tya : Statement .tya := fun _ h => encode_length h
theorem txs : Statement .txs := fun _ h => encode_length h
theorem clc : Statement .clc := fun _ h => encode_length h
theorem cld : Statement .cld := fun _ h => encode_length h
theorem cli : Statement .cli := fun _ h => encode_length h
theorem clv : Statement .clv := fun _ h => encode_length h
theorem sec : Statement .sec := fun _ h => encode_length h
theorem sed : Statement .sed := fun _ h => encode_length h
theorem sei : Statement .sei := fun _ h => encode_length h
theorem nop : Statement .nop := fun _ h => encode_length h
theorem nopUnassigned (op : Byte) : Statement (.nopUnassigned op) := fun _ h => encode_length h
theorem pha : Statement .pha := fun _ h => encode_length h
theorem php : Statement .php := fun _ h => encode_length h
theorem pla : Statement .pla := fun _ h => encode_length h
theorem plp : Statement .plp := fun _ h => encode_length h
theorem bcc (off : Byte) : Statement (.bcc off) := fun _ h => encode_length h
theorem bcs (off : Byte) : Statement (.bcs off) := fun _ h => encode_length h
theorem beq (off : Byte) : Statement (.beq off) := fun _ h => encode_length h
theorem bne (off : Byte) : Statement (.bne off) := fun _ h => encode_length h
theorem bmi (off : Byte) : Statement (.bmi off) := fun _ h => encode_length h
theorem bpl (off : Byte) : Statement (.bpl off) := fun _ h => encode_length h
theorem bvc (off : Byte) : Statement (.bvc off) := fun _ h => encode_length h
theorem bvs (off : Byte) : Statement (.bvs off) := fun _ h => encode_length h
theorem jmp (o : JumpOperand) : Statement (.jmp o) := fun _ h => encode_length h
theorem jsr (target : Word) : Statement (.jsr target) := fun _ h => encode_length h
theorem rts : Statement .rts := fun _ h => encode_length h
theorem rti : Statement .rti := fun _ h => encode_length h
theorem brk : Statement .brk := fun _ h => encode_length h

end EncodedLength

end Sys2Proof.Laws
end

