-- ==== Sys2Proof/Laws/Step.lean ====
section
/-! SUPPORT. What a step is, what the interface's word placement makes the next step run, and the spec lemmas of
branch, push and pop. -/

namespace Sys2Proof.Machine

/-- A step is the meaning of the instruction whose three bytes lie at PC. -/
theorem step_eq_exec_decode (s : State) :
    step s = exec (decode (readByte s s.pc) (readByte s (s.pc + 1)) (readByte s (s.pc + 2))) s := rfl

/-- The instruction `withFetchWord` places is the one that is fetched next. -/
theorem fetchInstr_withFetchWord (s : State) (nbits w : Nat) :
    fetchInstr (s.withFetchWord nbits w) =
      decode (tableByte nbits w 0) (tableByte nbits w 1) (tableByte nbits w 2) := by
  simp only [fetchInstr, State.withFetchWord, writeByte_pc, readByte_writeByte, if_true]
  simp

/-- The next step runs what the decoder reads from the placed word. -/
theorem step_withFetchWord (s : State) (nbits w : Nat) :
    step (s.withFetchWord nbits w) =
      exec (decode (tableByte nbits w 0) (tableByte nbits w 1) (tableByte nbits w 2)) (s.withFetchWord nbits w) := by
  rw [step, fetchInstr_withFetchWord]

/-- The machine at the default parameters is `exec` (R4). -/
theorem execWith_defaultCosts (i : Instr) (s : State) : execWith defaultCosts i s = exec i s := by
  cases i <;> rfl

theorem stepWith_defaultCosts (s : State) : stepWith defaultCosts s = step s :=
  execWith_defaultCosts (fetchInstr s) s

/-- The cycle parameters reach the charge of an instruction and nothing else that is issued. -/
theorem issue_eq_issue_default (i : Instr) (s : State) (c : Costs) :
    issue i s c = { issue i s with cycles := s.cycles + instrCost i s c } := rfl

/-- Everything `Branch` can do (R190): nothing, or PC at the target with one or two cycles more. -/
theorem branch_spec (c : Bool) (off : Byte) (s : State) :
    branch c off s =
      if c then
        { s with
          pc := s.pc + sext16 off
          cycles := s.cycles + 1 + (pageCross s.pc (s.pc + sext16 off)).toNat }
      else s := rfl

/-- The number a little-endian word stands for (R43). -/
theorem wordOf_toNat (lo hi : Byte) : (wordOf lo hi).toNat = lo.toNat + 256 * hi.toNat := by
  rw [wordOf, BitVec.toNat_append, ← Nat.shiftLeft_add_eq_or_of_lt lo.isLt, Nat.shiftLeft_eq]
  omega

/-- An instruction is one to three bytes long (R60). -/
theorem instrLength_bounds (i : Instr) : 1 ≤ instrLength i ∧ instrLength i ≤ 3 := by
  unfold instrLength
  cases i.mode <;> decide

/-- A push leaves the pushed byte where the next pop reads it (R182). -/
theorem popByte_push (v : Byte) (s : State) : popByte (push v s) = v := by
  rw [popByte, readByte_push, push_sp, BitVec.sub_add_cancel, if_pos rfl]

/-- A pop after a push restores SP (R182). -/
theorem popState_push_sp (v : Byte) (s : State) : (popState (push v s)).sp = s.sp := by
  rw [popState_sp, push_sp, BitVec.sub_add_cancel]

/-- The word pushed is the word the next two pops return (R200, R201). -/
theorem popWord_pushWord (w : Word) (s : State) : popWord (pushWord w s) = w := by
  have hne : stackAddr s.sp ≠ stackAddr (s.sp - 1) := fun h => by
    have := stackAddr_inj.mp h
    bv_omega
  have hlo : popByte (pushWord w s) = lowByte w := popByte_push _ _
  have hhi : popByte (popState (pushWord w s)) = highByte w := by
    simp only [popByte, popState_sp, pushWord_sp, BitVec.sub_add_cancel]
    show readByte (push (lowByte w) (push (highByte w) s)) (stackAddr s.sp) = _
    rw [readByte_push, push_sp, if_neg hne, readByte_push, if_pos rfl]
  rw [popWord, hlo, hhi, wordOf_lowByte_highByte]

end Sys2Proof.Machine
end

