-- ==== Sys2Proof/Tests/Slice0.lean ====
section
/-! SUPPORT. The model's own tests: what WellFormed refuses, one decode test per constructor with every opcode byte of
it, at most two one-step vectors per instruction from spec/95_test_vectors.md (the theorem's name carries the row's
id), the host interface, and for every obligation with hypotheses a concrete state and operands that meet them. -/

namespace Sys2Proof.Tests

open Sys2Proof.Machine Sys2Proof.Claims

/-! ## WellFormed refuses a mode the mnemonic does not have (R64, R97) and a byte R65 does not list -/

theorem test_wellFormed_refuses_eight :
    ([.adc (.mem (.zeroPageY 0x10)), .and (.mem (.zeroPageY 0x10)), .cmp (.mem (.zeroPageY 0x10)),
      .eor (.mem (.zeroPageY 0x10)), .lda (.mem (.zeroPageY 0x10)), .ora (.mem (.zeroPageY 0x10)),
      .sbc (.mem (.zeroPageY 0x10))] : List Instr).any
      Instr.wellFormed = false := by decide

theorem test_wellFormed_refuses_bit :
    ([.bit (.zeroPageX 0x10), .bit (.indirectY 0x10)] : List Instr).any
      Instr.wellFormed = false := by decide

theorem test_wellFormed_refuses_cpx_cpy :
    ([.cpx (.mem (.zeroPageX 0x10)), .cpy (.mem (.absoluteX 0x1000))] : List Instr).any
      Instr.wellFormed = false := by decide

theorem test_wellFormed_refuses_shifts :
    ([.asl (.mem (.absoluteY 0x1000)), .lsr (.mem (.zeroPageY 0x10)), .rol (.mem (.indirectX 0x10)),
      .ror (.mem (.indirectY 0x10))] : List Instr).any
      Instr.wellFormed = false := by decide

theorem test_wellFormed_refuses_inc_dec :
    ([.inc (.zeroPageY 0x10), .dec (.absoluteY 0x1000)] : List Instr).any
      Instr.wellFormed = false := by decide

theorem test_wellFormed_refuses_ldx :
    ([.ldx (.mem (.zeroPageX 0x10)), .ldx (.mem (.absoluteX 0x1000))] : List Instr).any
      Instr.wellFormed = false := by decide

theorem test_wellFormed_refuses_ldy :
    ([.ldy (.mem (.zeroPageY 0x10)), .ldy (.mem (.absoluteY 0x1000))] : List Instr).any
      Instr.wellFormed = false := by decide

theorem test_wellFormed_refuses_sta :
    ([.sta (.zeroPageY 0x10)] : List Instr).any
      Instr.wellFormed = false := by decide

theorem test_wellFormed_refuses_stx :
    ([.stx (.zeroPageX 0x10), .stx (.absoluteY 0x1000)] : List Instr).any
      Instr.wellFormed = false := by decide

theorem test_wellFormed_refuses_sty :
    ([.sty (.zeroPageY 0x10), .sty (.absoluteX 0x1000)] : List Instr).any
      Instr.wellFormed = false := by decide

theorem test_wellFormed_refuses_unassigned :
    ([.nopUnassigned 0x00, .nopUnassigned 0xEA, .nopUnassigned 0xFE] : List Instr).any
      Instr.wellFormed = false := by decide

/-! ## Decoding: the words of every constructor, written out from R64, R65 and the operand forms of R61, R62 -/

theorem test_decode_brk : decode 0x00 0x34 0x12 = .brk := rfl

theorem test_decode_ora :
    [decode 0x01 0x34 0x12, decode 0x05 0x34 0x12, decode 0x09 0x34 0x12, decode 0x0D 0x34 0x12,
     decode 0x11 0x34 0x12, decode 0x15 0x34 0x12, decode 0x19 0x34 0x12, decode 0x1D 0x34 0x12] =
    [.ora (.mem (.indirectX 0x34)), .ora (.mem (.zeroPage 0x34)), .ora (.immediate 0x34),
     .ora (.mem (.absolute 0x1234)), .ora (.mem (.indirectY 0x34)), .ora (.mem (.zeroPageX 0x34)),
     .ora (.mem (.absoluteY 0x1234)), .ora (.mem (.absoluteX 0x1234))] := by decide

theorem test_decode_asl :
    [decode 0x06 0x34 0x12, decode 0x0A 0x34 0x12, decode 0x0E 0x34 0x12, decode 0x16 0x34 0x12,
     decode 0x1E 0x34 0x12] =
    [.asl (.mem (.zeroPage 0x34)), .asl .accumulator, .asl (.mem (.absolute 0x1234)),
     .asl (.mem (.zeroPageX 0x34)), .asl (.mem (.absoluteX 0x1234))] := by decide

theorem test_decode_php : decode 0x08 0x34 0x12 = .php := rfl

theorem test_decode_bpl : decode 0x10 0x34 0x12 = .bpl 0x34 := rfl

theorem test_decode_clc : decode 0x18 0x34 0x12 = .clc := rfl

theorem test_decode_jsr : decode 0x20 0x34 0x12 = .jsr 0x1234 := rfl

theorem test_decode_and :
    [decode 0x21 0x34 0x12, decode 0x25 0x34 0x12, decode 0x29 0x34 0x12, decode 0x2D 0x34 0x12,
     decode 0x31 0x34 0x12, decode 0x35 0x34 0x12, decode 0x39 0x34 0x12, decode 0x3D 0x34 0x12] =
    [.and (.mem (.indirectX 0x34)), .and (.mem (.zeroPage 0x34)), .and (.immediate 0x34),
     .and (.mem (.absolute 0x1234)), .and (.mem (.indirectY 0x34)), .and (.mem (.zeroPageX 0x34)),
     .and (.mem (.absoluteY 0x1234)), .and (.mem (.absoluteX 0x1234))] := by decide

theorem test_decode_bit :
    [decode 0x24 0x34 0x12, decode 0x2C 0x34 0x12] =
    [.bit (.zeroPage 0x34), .bit (.absolute 0x1234)] := by decide

theorem test_decode_rol :
    [decode 0x26 0x34 0x12, decode 0x2A 0x34 0x12, decode 0x2E 0x34 0x12, decode 0x36 0x34 0x12,
     decode 0x3E 0x34 0x12] =
    [.rol (.mem (.zeroPage 0x34)), .rol .accumulator, .rol (.mem (.absolute 0x1234)),
     .rol (.mem (.zeroPageX 0x34)), .rol (.mem (.absoluteX 0x1234))] := by decide

theorem test_decode_plp : decode 0x28 0x34 0x12 = .plp := rfl

theorem test_decode_bmi : decode 0x30 0x34 0x12 = .bmi 0x34 := rfl

theorem test_decode_sec : decode 0x38 0x34 0x12 = .sec := rfl

theorem test_decode_rti : decode 0x40 0x34 0x12 = .rti := rfl

theorem test_decode_eor :
    [decode 0x41 0x34 0x12, decode 0x45 0x34 0x12, decode 0x49 0x34 0x12, decode 0x4D 0x34 0x12,
     decode 0x51 0x34 0x12, decode 0x55 0x34 0x12, decode 0x59 0x34 0x12, decode 0x5D 0x34 0x12] =
    [.eor (.mem (.indirectX 0x34)), .eor (.mem (.zeroPage 0x34)), .eor (.immediate 0x34),
     .eor (.mem (.absolute 0x1234)), .eor (.mem (.indirectY 0x34)), .eor (.mem (.zeroPageX 0x34)),
     .eor (.mem (.absoluteY 0x1234)), .eor (.mem (.absoluteX 0x1234))] := by decide

theorem test_decode_lsr :
    [decode 0x46 0x34 0x12, decode 0x4A 0x34 0x12, decode 0x4E 0x34 0x12, decode 0x56 0x34 0x12,
     decode 0x5E 0x34 0x12] =
    [.lsr (.mem (.zeroPage 0x34)), .lsr .accumulator, .lsr (.mem (.absolute 0x1234)),
     .lsr (.mem (.zeroPageX 0x34)), .lsr (.mem (.absoluteX 0x1234))] := by decide

theorem test_decode_pha : decode 0x48 0x34 0x12 = .pha := rfl

theorem test_decode_jmp :
    [decode 0x4C 0x34 0x12, decode 0x6C 0x34 0x12] =
    [.jmp (.absolute 0x1234), .jmp (.indirect 0x1234)] := by decide

theorem test_decode_bvc : decode 0x50 0x34 0x12 = .bvc 0x34 := rfl

theorem test_decode_cli : decode 0x58 0x34 0x12 = .cli := rfl

theorem test_decode_rts : decode 0x60 0x34 0x12 = .rts := rfl

theorem test_decode_adc :
    [decode 0x61 0x34 0x12, decode 0x65 0x34 0x12, decode 0x69 0x34 0x12, decode 0x6D 0x34 0x12,
     decode 0x71 0x34 0x12, decode 0x75 0x34 0x12, decode 0x79 0x34 0x12, decode 0x7D 0x34 0x12] =
    [.adc (.mem (.indirectX 0x34)), .adc (.mem (.zeroPage 0x34)), .adc (.immediate 0x34),
     .adc (.mem (.absolute 0x1234)), .adc (.mem (.indirectY 0x34)), .adc (.mem (.zeroPageX 0x34)),
     .adc (.mem (.absoluteY 0x1234)), .adc (.mem (.absoluteX 0x1234))] := by decide

theorem test_decode_ror :
    [decode 0x66 0x34 0x12, decode 0x6A 0x34 0x12, decode 0x6E 0x34 0x12, decode 0x76 0x34 0x12,
     decode 0x7E 0x34 0x12] =
    [.ror (.mem (.zeroPage 0x34)), .ror .accumulator, .ror (.mem (.absolute 0x1234)),
     .ror (.mem (.zeroPageX 0x34)), .ror (.mem (.absoluteX 0x1234))] := by decide

theorem test_decode_pla : decode 0x68 0x34 0x12 = .pla := rfl

theorem test_decode_bvs : decode 0x70 0x34 0x12 = .bvs 0x34 := rfl

theorem test_decode_sei : decode 0x78 0x34 0x12 = .sei := rfl

theorem test_decode_sta :
    [decode 0x81 0x34 0x12, decode 0x85 0x34 0x12, decode 0x8D 0x34 0x12, decode 0x91 0x34 0x12,
     decode 0x95 0x34 0x12, decode 0x99 0x34 0x12, decode 0x9D 0x34 0x12] =
    [.sta (.indirectX 0x34), .sta (.zeroPage 0x34), .sta (.absolute 0x1234), .sta (.indirectY 0x34),
     .sta (.zeroPageX 0x34), .sta (.absoluteY 0x1234), .sta (.absoluteX 0x1234)] := by decide

theorem test_decode_sty :
    [decode 0x84 0x34 0x12, decode 0x8C 0x34 0x12, decode 0x94 0x34 0x12] =
    [.sty (.zeroPage 0x34), .sty (.absolute 0x1234), .sty (.zeroPageX 0x34)] := by decide

theorem test_decode_stx :
    [decode 0x86 0x34 0x12, decode 0x8E 0x34 0x12, decode 0x96 0x34 0x12] =
    [.stx (.zeroPage 0x34), .stx (.absolute 0x1234), .stx (.zeroPageY 0x34)] := by decide

theorem test_decode_dey : decode 0x88 0x34 0x12 = .dey := rfl

theorem test_decode_txa : decode 0x8A 0x34 0x12 = .txa := rfl

theorem test_decode_bcc : decode 0x90 0x34 0x12 = .bcc 0x34 := rfl

theorem test_decode_tya : decode 0x98 0x34 0x12 = .tya := rfl

theorem test_decode_txs : decode 0x9A 0x34 0x12 = .txs := rfl

theorem test_decode_ldy :
    [decode 0xA0 0x34 0x12, decode 0xA4 0x34 0x12, decode 0xAC 0x34 0x12, decode 0xB4 0x34 0x12,
     decode 0xBC 0x34 0x12] =
    [.ldy (.immediate 0x34), .ldy (.mem (.zeroPage 0x34)), .ldy (.mem (.absolute 0x1234)),
     .ldy (.mem (.zeroPageX 0x34)), .ldy (.mem (.absoluteX 0x1234))] := by decide

theorem test_decode_lda :
    [decode 0xA1 0x34 0x12, decode 0xA5 0x34 0x12, decode 0xA9 0x34 0x12, decode 0xAD 0x34 0x12,
     decode 0xB1 0x34 0x12, decode 0xB5 0x34 0x12, decode 0xB9 0x34 0x12, decode 0xBD 0x34 0x12] =
    [.lda (.mem (.indirectX 0x34)), .lda (.mem (.zeroPage 0x34)), .lda (.immediate 0x34),
     .lda (.mem (.absolute 0x1234)), .lda (.mem (.indirectY 0x34)), .lda (.mem (.zeroPageX 0x34)),
     .lda (.mem (.absoluteY 0x1234)), .lda (.mem (.absoluteX 0x1234))] := by decide

theorem test_decode_ldx :
    [decode 0xA2 0x34 0x12, decode 0xA6 0x34 0x12, decode 0xAE 0x34 0x12, decode 0xB6 0x34 0x12,
     decode 0xBE 0x34 0x12] =
    [.ldx (.immediate 0x34), .ldx (.mem (.zeroPage 0x34)), .ldx (.mem (.absolute 0x1234)),
     .ldx (.mem (.zeroPageY 0x34)), .ldx (.mem (.absoluteY 0x1234))] := by decide

theorem test_decode_tay : decode 0xA8 0x34 0x12 = .tay := rfl

theorem test_decode_tax : decode 0xAA 0x34 0x12 = .tax := rfl

theorem test_decode_bcs : decode 0xB0 0x34 0x12 = .bcs 0x34 := rfl

theorem test_decode_clv : decode 0xB8 0x34 0x12 = .clv := rfl

theorem test_decode_tsx : decode 0xBA 0x34 0x12 = .tsx := rfl

theorem test_decode_cpy :
    [decode 0xC0 0x34 0x12, decode 0xC4 0x34 0x12, decode 0xCC 0x34 0x12] =
    [.cpy (.immediate 0x34), .cpy (.mem (.zeroPage 0x34)), .cpy (.mem (.absolute 0x1234))] := by decide

theorem test_decode_cmp :
    [decode 0xC1 0x34 0x12, decode 0xC5 0x34 0x12, decode 0xC9 0x34 0x12, decode 0xCD 0x34 0x12,
     decode 0xD1 0x34 0x12, decode 0xD5 0x34 0x12, decode 0xD9 0x34 0x12, decode 0xDD 0x34 0x12] =
    [.cmp (.mem (.indirectX 0x34)), .cmp (.mem (.zeroPage 0x34)), .cmp (.immediate 0x34),
     .cmp (.mem (.absolute 0x1234)), .cmp (.mem (.indirectY 0x34)), .cmp (.mem (.zeroPageX 0x34)),
     .cmp (.mem (.absoluteY 0x1234)), .cmp (.mem (.absoluteX 0x1234))] := by decide

theorem test_decode_dec :
    [decode 0xC6 0x34 0x12, decode 0xCE 0x34 0x12, decode 0xD6 0x34 0x12, decode 0xDE 0x34 0x12] =
    [.dec (.zeroPage 0x34), .dec (.absolute 0x1234), .dec (.zeroPageX 0x34), .dec (.absoluteX 0x1234)] := by decide

theorem test_decode_iny : decode 0xC8 0x34 0x12 = .iny := rfl

theorem test_decode_dex : decode 0xCA 0x34 0x12 = .dex := rfl

theorem test_decode_bne : decode 0xD0 0x34 0x12 = .bne 0x34 := rfl

theorem test_decode_cld : decode 0xD8 0x34 0x12 = .cld := rfl

theorem test_decode_cpx :
    [decode 0xE0 0x34 0x12, decode 0xE4 0x34 0x12, decode 0xEC 0x34 0x12] =
    [.cpx (.immediate 0x34), .cpx (.mem (.zeroPage 0x34)), .cpx (.mem (.absolute 0x1234))] := by decide

theorem test_decode_sbc :
    [decode 0xE1 0x34 0x12, decode 0xE5 0x34 0x12, decode 0xE9 0x34 0x12, decode 0xED 0x34 0x12,
     decode 0xF1 0x34 0x12, decode 0xF5 0x34 0x12, decode 0xF9 0x34 0x12, decode 0xFD 0x34 0x12] =
    [.sbc (.mem (.indirectX 0x34)), .sbc (.mem (.zeroPage 0x34)), .sbc (.immediate 0x34),
     .sbc (.mem (.absolute 0x1234)), .sbc (.mem (.indirectY 0x34)), .sbc (.mem (.zeroPageX 0x34)),
     .sbc (.mem (.absoluteY 0x1234)), .sbc (.mem (.absoluteX 0x1234))] := by decide

theorem test_decode_inc :
    [decode 0xE6 0x34 0x12, decode 0xEE 0x34 0x12, decode 0xF6 0x34 0x12, decode 0xFE 0x34 0x12] =
    [.inc (.zeroPage 0x34), .inc (.absolute 0x1234), .inc (.zeroPageX 0x34), .inc (.absoluteX 0x1234)] := by decide

theorem test_decode_inx : decode 0xE8 0x34 0x12 = .inx := rfl

theorem test_decode_nop : decode 0xEA 0x34 0x12 = .nop := rfl

theorem test_decode_beq : decode 0xF0 0x34 0x12 = .beq 0x34 := rfl

theorem test_decode_sed : decode 0xF8 0x34 0x12 = .sed := rfl

/-- Every one of the 105 bytes of R65 is a one-byte NOP: the bytes after it are another instruction's. -/
theorem test_decode_nopUnassigned :
    unassignedBytes.length = 105 ∧
      (unassignedBytes.all fun op => decide (decode op 0xA9 0x34 = .nopUnassigned op)) = true := by decide

/-- An empty list and a list that ends inside an instruction are rejected by name. -/
theorem test_decodeBytes_rejects_by_name :
    (match decodeBytes [] with | .error e => e == .noOpcode | .ok _ => false) = true ∧
    (match decodeBytes [0x8D, 0x34] with | .error e => e == .truncated 0x8D | .ok _ => false) = true := by decide

/-! ## One step (spec/95_test_vectors.md): the state after reset, changed as the row says, with bytes and cells placed -/

/-- `s` with a list of bytes stored from `addr` on. -/
def place : Word → List Byte → State → State
  | _, [], s => s
  | addr, b :: bs, s => place (addr + 1) bs (writeByte s addr b)

/-- `s` with cells set. -/
def cells : List (Word × Byte) → State → State
  | [], s => s
  | (addr, b) :: cs, s => cells cs (writeByte s addr b)

/-- A reading of the state after one step from `s` with `bytes` at its PC. -/
def after {α : Type} (bytes : List Byte) (s : State) (reading : State → α) : Option α :=
  match step (place s.pc bytes s) with
  | .next t => some (reading t)
  | .fault _ => none
  | .refused _ => none

theorem test_adc_V41_2 :
    after [0x69, 0x01] { State.reset with a := 0x7F, p := 0x01 } (fun t => (t.a, t.p, t.cycles)) =
      some (0x81, 0xC0, 10) := by decide

theorem test_adc_V41_6 :
    after [0x69, 0x01] { State.reset with a := 0x09, p := 0x08 } (fun t => (t.a, t.p, t.cycles)) =
      some (0x0A, 0x08, 10) := by decide

theorem test_sbc_V41_14 :
    after [0xE9, 0xFF] { State.reset with a := 0x00 } (fun t => (t.p, t.cycles)) =
      some (0x02, 10) := by decide

theorem test_sbc_V41_17 :
    after [0xE9, 0x01] { State.reset with a := 0x10, p := 0x09 } (fun t => (t.a, t.p, t.cycles)) =
      some (0x0F, 0x09, 10) := by decide

theorem test_and_V41_19 :
    after [0x35, 0x20] (cells [(0x0021, 0x81)] { State.reset with a := 0xFF, x := 0x01 }) (fun t => (t.a, t.p, t.cycles)) =
      some (0x81, 0x80, 12) := by decide

theorem test_ora_V41_20 :
    after [0x09, 0x80] { State.reset with a := 0x01 } (fun t => (t.a, t.p, t.cycles)) =
      some (0x81, 0x80, 10) := by decide

theorem test_eor_V41_23 :
    after [0x59, 0x00, 0x03] (cells [(0x0302, 0xF0)] { State.reset with a := 0x0F, y := 0x02 }) (fun t => (t.a, t.p, t.cycles)) =
      some (0xFF, 0x80, 12) := by decide

theorem test_bit_V41_24 :
    after [0x24, 0x10] (cells [(0x0010, 0xC0)] { State.reset with a := 0x00 }) (fun t => (t.p, t.cycles)) =
      some (0xC2, 11) := by decide

theorem test_bit_V41_26 :
    after [0x24, 0x10] (cells [(0x0010, 0x70)] { State.reset with a := 0x0F, p := 0x01 }) (fun t => (t.p, t.cycles)) =
      some (0x43, 11) := by decide

theorem test_cmp_V41_29 :
    after [0xC9, 0x01] { State.reset with a := 0x80, p := 0x40 } (fun t => (t.p, t.cycles)) =
      some (0x41, 10) := by decide

theorem test_cmp_V41_30 :
    after [0xC9, 0x80] { State.reset with a := 0x00 } (fun t => (t.p, t.cycles)) =
      some (0x80, 10) := by decide

theorem test_cpx_V41_31 :
    after [0xE4, 0x10] (cells [(0x0010, 0x0F)] { State.reset with x := 0x10 }) (fun t => (t.p, t.cycles)) =
      some (0x01, 11) := by decide

theorem test_cpx_V41_32 :
    after [0xE0, 0xFF] { State.reset with x := 0x00 } (fun t => (t.p, t.cycles)) =
      some (0x00, 10) := by decide

theorem test_cpy_V41_34 :
    after [0xCC, 0x00, 0x03] (cells [(0x0300, 0x80)] { State.reset with y := 0x7F }) (fun t => (t.p, t.cycles)) =
      some (0x80, 12) := by decide

theorem test_asl_V42_2 :
    after [0x0A] { State.reset with a := 0x40, p := 0x01 } (fun t => (t.a, t.p, t.cycles)) =
      some (0x80, 0x80, 10) := by decide

theorem test_asl_V42_10 :
    after [0x1E, 0xF0, 0x12] (cells [(0x1310, 0x01)] { State.reset with x := 0x20 }) (fun t => (t.p, readByte t 0x1310, t.cycles)) =
      some (0x00, 0x02, 13) := by decide

theorem test_lsr_V42_5 :
    after [0x4E, 0x00, 0x03] (cells [(0x0300, 0xFE)] { State.reset with p := 0x80 }) (fun t => (t.p, readByte t 0x0300, t.cycles)) =
      some (0x00, 0x7F, 12) := by decide

theorem test_rol_V42_6 :
    after [0x2A] { State.reset with a := 0x80, p := 0x01 } (fun t => (t.a, t.p, t.cycles)) =
      some (0x01, 0x01, 10) := by decide

theorem test_rol_V42_7 :
    after [0x3E, 0x00, 0x03] (cells [(0x0301, 0x40)] { State.reset with x := 0x01 }) (fun t => (t.p, readByte t 0x0301, t.cycles)) =
      some (0x80, 0x80, 12) := by decide

theorem test_ror_V42_9 :
    after [0x76, 0x10] (cells [(0x0012, 0x01)] { State.reset with x := 0x02 }) (fun t => (t.p, readByte t 0x0012, t.cycles)) =
      some (0x03, 0x00, 12) := by decide

theorem test_ror_V42_12 :
    after [0x6A] { State.reset with a := 0x00, p := 0x01 } (fun t => (t.a, t.p, t.cycles)) =
      some (0x80, 0x80, 10) := by decide

theorem test_inc_V43_1 :
    after [0xE6, 0x10] (cells [(0x0010, 0xFF)] { State.reset with p := 0x01 }) (fun t => (t.p, readByte t 0x0010, t.cycles)) =
      some (0x03, 0x00, 11) := by decide

theorem test_dec_V43_5 :
    after [0xD6, 0x10] (cells [(0x0008, 0x80)] { State.reset with x := 0xF8 }) (fun t => (t.p, readByte t 0x0008, t.cycles)) =
      some (0x00, 0x7F, 12) := by decide

theorem test_dec_V30_4 :
    after [0xDE, 0x00, 0x02] (cells [(0x0201, 0x01)] { State.reset with x := 0x01 }) (fun t => (t.p, readByte t 0x0201, t.cycles)) =
      some (0x02, 0x00, 12) := by decide

theorem test_inx_V43_6 :
    after [0xE8] { State.reset with x := 0xFF } (fun t => (t.x, t.p, t.cycles)) =
      some (0x00, 0x02, 10) := by decide

theorem test_dex_V43_7 :
    after [0xCA] { State.reset with x := 0x00 } (fun t => (t.x, t.p, t.cycles)) =
      some (0xFF, 0x80, 10) := by decide

theorem test_iny_V43_8 :
    after [0xC8] { State.reset with y := 0x7F } (fun t => (t.y, t.p, t.cycles)) =
      some (0x80, 0x80, 10) := by decide

theorem test_dey_V43_9 :
    after [0x88] { State.reset with y := 0x01 } (fun t => (t.y, t.p, t.cycles)) =
      some (0x00, 0x02, 10) := by decide

theorem test_lda_V40_7 :
    after [0xA1, 0xF0] (cells [(0x0000, 0x12), (0x00FF, 0x34), (0x0100, 0x99), (0x1234, 0xE1), (0x9934, 0x01)] { State.reset with x := 0x0F }) (fun t => (t.a, t.p, t.cycles)) =
      some (0xE1, 0x80, 14) := by decide

theorem test_lda_V40_8 :
    after [0xB1, 0xFF] (cells [(0x0000, 0x20), (0x00FF, 0xFF), (0x0100, 0x30), (0x2100, 0x42), (0x3100, 0x24)] { State.reset with y := 0x01 }) (fun t => (t.a, t.p, t.cycles)) =
      some (0x42, 0x00, 14) := by decide

theorem test_ldx_V40_2 :
    after [0xB6, 0xFF] (cells [(0x0001, 0x80), (0x0101, 0x7F)] { State.reset with y := 0x02 }) (fun t => (t.x, t.p, t.cycles)) =
      some (0x80, 0x80, 12) := by decide

theorem test_ldy_V44_3 :
    after [0xBC, 0x00, 0x03] (cells [(0x0303, 0x01)] { State.reset with x := 0x03 }) (fun t => (t.y, t.p, t.cycles)) =
      some (0x01, 0x00, 12) := by decide

theorem test_sta_V40_6 :
    after [0x91, 0x40] (cells [(0x0040, 0x00), (0x0041, 0x13)] { State.reset with a := 0xC3, y := 0x05 }) (fun t => (t.p, readByte t 0x1305, t.cycles)) =
      some (0x00, 0xC3, 13) := by decide

theorem test_sta_V40_18 :
    after [0x9D, 0xF0, 0x12] { State.reset with a := 0x66, x := 0x20 } (fun t => (t.p, readByte t 0x1310, t.cycles)) =
      some (0x00, 0x66, 13) := by decide

theorem test_stx_V44_5 :
    after [0x96, 0x10] { State.reset with x := 0xAA, y := 0xF1 } (fun t => (t.p, readByte t 0x0001, t.cycles)) =
      some (0x00, 0xAA, 12) := by decide

theorem test_sty_V44_6 :
    after [0x8C, 0x00, 0x03] { State.reset with y := 0x80 } (fun t => (t.p, readByte t 0x0300, t.cycles)) =
      some (0x00, 0x80, 12) := by decide

theorem test_tax_V44_9 :
    after [0xAA] { State.reset with a := 0x80 } (fun t => (t.x, t.p, t.cycles)) =
      some (0x80, 0x80, 10) := by decide

theorem test_tay_V44_10 :
    after [0xA8] { State.reset with a := 0x00, y := 0x33, p := 0x80 } (fun t => (t.y, t.p, t.cycles)) =
      some (0x00, 0x02, 10) := by decide

theorem test_tsx_V44_11 :
    after [0xBA] State.reset (fun t => (t.x, t.p, t.cycles)) =
      some (0xFF, 0x80, 10) := by decide

theorem test_txa_V44_12 :
    after [0x8A] { State.reset with a := 0xFF, x := 0x01, p := 0x82 } (fun t => (t.a, t.p, t.cycles)) =
      some (0x01, 0x00, 10) := by decide

theorem test_tya_V44_13 :
    after [0x98] { State.reset with y := 0xF0 } (fun t => (t.a, t.p, t.cycles)) =
      some (0xF0, 0x80, 10) := by decide

theorem test_txs_V44_14 :
    after [0x9A] { State.reset with x := 0x00, p := 0x80 } (fun t => (t.sp, t.p, t.cycles)) =
      some (0x00, 0x80, 10) := by decide

theorem test_clc_V45_1 :
    after [0x18] { State.reset with p := 0xDF } (fun t => (t.p, t.cycles)) =
      some (0xDE, 10) := by decide

theorem test_cld_V45_2 :
    after [0xD8] { State.reset with p := 0xDF } (fun t => (t.p, t.cycles)) =
      some (0xD7, 10) := by decide

theorem test_cli_V45_3 :
    after [0x58] { State.reset with p := 0xDF } (fun t => (t.p, t.cycles)) =
      some (0xDB, 10) := by decide

theorem test_clv_V45_4 :
    after [0xB8] { State.reset with p := 0xDF } (fun t => (t.p, t.cycles)) =
      some (0x9F, 10) := by decide

theorem test_sec_V45_5 :
    after [0x38] State.reset (fun t => (t.p, t.cycles)) =
      some (0x01, 10) := by decide

theorem test_sed_V45_6 :
    after [0xF8] State.reset (fun t => (t.p, t.cycles)) =
      some (0x08, 10) := by decide

theorem test_sei_V45_7 :
    after [0x78] State.reset (fun t => (t.p, t.cycles)) =
      some (0x04, 10) := by decide

theorem test_nop_V45_9 :
    after [0xEA] { State.reset with a := 0x01, x := 0x02, y := 0x03, p := 0xCF } (fun t => (t.pc, t.p, t.cycles)) =
      some (0x0601, 0xCF, 9) := by decide

theorem test_nopUnassigned_V30_2 :
    after [0x80, 0xA9] State.reset (fun t => (t.pc, t.cycles)) =
      some (0x0601, 9) := by decide

theorem test_nopUnassigned_V30_3 :
    after [0xFF] { State.reset with a := 0x12, x := 0x34, y := 0x56, p := 0xC3 } (fun t => (t.pc, t.cycles)) =
      some (0x0601, 9) := by decide

theorem test_pha_V46_9 :
    after [0x48] { State.reset with sp := 0x00, a := 0x99 } (fun t => (t.sp, readByte t 0x0100, t.cycles)) =
      some (0xFF, 0x99, 11) := by decide

theorem test_php_V46_2 :
    after [0x08] { State.reset with p := 0xC3 } (fun t => (t.sp, t.p, readByte t 0x01FF, t.cycles)) =
      some (0xFE, 0xC3, 0xC3, 11) := by decide

theorem test_pla_V46_5 :
    after [0x68] (cells [(0x0100, 0x00)] { State.reset with sp := 0xFF, a := 0x55 }) (fun t => (t.sp, t.a, t.p, t.cycles)) =
      some (0x00, 0x00, 0x02, 12) := by decide

theorem test_plp_V46_6 :
    after [0x28] (cells [(0x01FF, 0xFF)] { State.reset with sp := 0xFE }) (fun t => (t.sp, t.p, t.cycles)) =
      some (0xFF, 0xDF, 12) := by decide

theorem test_bcc_V47_1 :
    after [0x90, 0x10] State.reset (fun t => (t.pc, t.cycles)) =
      some (0x0612, 12) := by decide

theorem test_bcc_V47_2 :
    after [0x90, 0x10] { State.reset with p := 0x01 } (fun t => (t.pc, t.cycles)) =
      some (0x0602, 11) := by decide

theorem test_bcs_V47_3 :
    after [0xB0, 0x10] { State.reset with p := 0x01 } (fun t => (t.pc, t.cycles)) =
      some (0x0612, 12) := by decide

theorem test_bcs_V47_4 :
    after [0xB0, 0x10] State.reset (fun t => (t.pc, t.cycles)) =
      some (0x0602, 11) := by decide

theorem test_beq_V47_19 :
    after [0xF0, 0x05] { State.reset with pc := 0x06FC, p := 0x02 } (fun t => (t.pc, t.cycles)) =
      some (0x0703, 13) := by decide

theorem test_beq_V47_25 :
    after [0xF0, 0x00] { State.reset with pc := 0x06FE, p := 0x02 } (fun t => (t.pc, t.cycles)) =
      some (0x0700, 12) := by decide

theorem test_bne_V47_18 :
    after [0xD0, 0xFD] State.reset (fun t => (t.pc, t.cycles)) =
      some (0x05FF, 13) := by decide

theorem test_bne_V47_24 :
    after [0xD0, 0xFB] { State.reset with pc := 0x0000 } (fun t => (t.pc, t.cycles)) =
      some (0xFFFD, 13) := by decide

theorem test_bmi_V47_9 :
    after [0x30, 0x10] { State.reset with p := 0x80 } (fun t => (t.pc, t.cycles)) =
      some (0x0612, 12) := by decide

theorem test_bmi_V47_10 :
    after [0x30, 0x10] State.reset (fun t => (t.pc, t.cycles)) =
      some (0x0602, 11) := by decide

theorem test_bpl_V47_21 :
    after [0x10, 0x80] State.reset (fun t => (t.pc, t.cycles)) =
      some (0x0582, 13) := by decide

theorem test_bpl_V47_12 :
    after [0x10, 0x10] { State.reset with p := 0x80 } (fun t => (t.pc, t.cycles)) =
      some (0x0602, 11) := by decide

theorem test_bvc_V47_13 :
    after [0x50, 0x10] State.reset (fun t => (t.pc, t.cycles)) =
      some (0x0612, 12) := by decide

theorem test_bvc_V47_14 :
    after [0x50, 0x10] { State.reset with p := 0x40 } (fun t => (t.pc, t.cycles)) =
      some (0x0602, 11) := by decide

theorem test_bvs_V47_15 :
    after [0x70, 0x10] { State.reset with p := 0x40 } (fun t => (t.pc, t.cycles)) =
      some (0x0612, 12) := by decide

theorem test_bvs_V47_16 :
    after [0x70, 0x10] State.reset (fun t => (t.pc, t.cycles)) =
      some (0x0602, 11) := by decide

theorem test_jmp_V40_10 :
    after [0x6C, 0xFF, 0x12] (cells [(0x1200, 0x34), (0x12FF, 0x78), (0x1300, 0x56)] State.reset) (fun t => (t.pc, t.cycles)) =
      some (0x5678, 13) := by decide

theorem test_jmp_V40_11 :
    after [0x6C, 0xFF, 0xFF] (cells [(0x0000, 0x07), (0xFFFF, 0x00)] State.reset) (fun t => (t.pc, t.cycles)) =
      some (0x0700, 13) := by decide

theorem test_jsr_V47_28 :
    after [0x20, 0x34] (cells [(0x01FE, 0xFF), (0x01FF, 0xFF), (0x0800, 0x12)] { State.reset with pc := 0x07FE }) (fun t => (t.pc, t.sp, readByte t 0x01FE, readByte t 0x01FF, t.cycles)) =
      some (0x1234, 0xFD, 0x00, 0x08, 14) := by decide

theorem test_jsr_V47_29 :
    after [0x20, 0x00, 0x07] { State.reset with sp := 0x00 } (fun t => (t.pc, t.sp, readByte t 0x0100, readByte t 0x01FF, t.cycles)) =
      some (0x0700, 0xFE, 0x06, 0x02, 14) := by decide

theorem test_rts_V47_31 :
    after [0x60] (cells [(0x01FE, 0xFF), (0x01FF, 0xFF)] { State.reset with sp := 0xFD }) (fun t => (t.pc, t.sp, t.cycles)) =
      some (0x0000, 0xFF, 14) := by decide

theorem test_rts_V47_34 :
    after [0x60] (cells [(0x0100, 0x10), (0x0101, 0x20)] { State.reset with sp := 0xFF }) (fun t => (t.pc, t.sp, t.cycles)) =
      some (0x2011, 0x01, 14) := by decide

theorem test_rti_V47_32 :
    after [0x40] (cells [(0x01FD, 0xE3), (0x01FE, 0x34), (0x01FF, 0x12)] { State.reset with sp := 0xFC }) (fun t => (t.pc, t.sp, t.p, t.cycles)) =
      some (0x1234, 0xFF, 0xC3, 14) := by decide

theorem test_brk_V48_2 :
    after [0x00] { State.reset with sp := 0x80, a := 0x12, x := 0x34, y := 0x56, p := 0xCF } (fun t => (t.pc, t.p, t.cycles)) =
      some (0x0601, 0xDF, 15) := by decide

theorem test_brk_V48_3 :
    after [0x00] { State.reset with pc := 0xFFFF } (fun t => (t.pc, t.p, t.cycles)) =
      some (0x0000, 0x10, 15) := by decide
/-! ## The host interface: table words reach the decoder and the next step -/

theorem test_decodeTableWord_jsr : decodeTableWord 24 0x061020 = some (.jsr 0x0610) := by decide

/-- A row with fewer bits than the instruction: the operand bytes are 0. -/
theorem test_decodeTableWord_operands_zero : decodeTableWord 8 0x9D = some (.sta (.absoluteX 0x0000)) := by decide

theorem test_withFetchWord_runs_next :
    step (State.reset.withFetchWord 16 0x31A9) = exec (.lda (.immediate 0x31)) (State.reset.withFetchWord 16 0x31A9) :=
  rfl

theorem test_reset_registers : State.reset.pc = 0x0600 ∧ State.reset.sp = 0xFF ∧ State.reset.cycles = 8 := by
  decide

/-! ## Witnesses: the hypotheses of each obligation, met together -/

theorem witness_DecodeOfEncode :
    (Instr.sta (.indirectY 0xFF)).wellFormed = true ∧ (Instr.nopUnassigned 0xFF).wellFormed = true ∧
      (Instr.jmp (.indirect 0xFFFF)).wellFormed = true := by decide

theorem witness_EncodeOfDecode : decodeBytes [0x20, 0x10, 0x06, 0xEA] = .ok (.jsr 0x0610, [0xEA]) := rfl

theorem witness_OpcodeByteAlone :
    0x02#8 ∈ unassignedBytes ∧ 0xFF#8 ∈ unassignedBytes ∧ 0x00#8 ∉ unassignedBytes ∧ 0xFE#8 ∉ unassignedBytes := by
  decide

/-- A JSR that straddles $FFFF and $0000. -/
def straddlingJsr : State := place 0xFFFF [0x20, 0x10, 0x06] { State.reset with pc := 0xFFFF }

theorem witness_StepRuns_decoded :
    decodeBytes
      [readByte straddlingJsr straddlingJsr.pc, readByte straddlingJsr (straddlingJsr.pc + 1),
        readByte straddlingJsr (straddlingJsr.pc + 2)] = .ok (.jsr 0x0610, []) := rfl

theorem witness_StepRuns_encoded :
    (Instr.jsr 0x0610).wellFormed = true ∧ encode (.jsr 0x0610) = some [0x20, 0x10, 0x06] ∧
      ∀ (k : Nat) (h : k < [0x20#8, 0x10#8, 0x06#8].length),
        readByte straddlingJsr (straddlingJsr.pc + BitVec.ofNat 16 k) = [0x20#8, 0x10#8, 0x06#8][k] := by decide

theorem witness_PcAdvances :
    (encode .brk = some [0x00] ∧ setsPc .brk State.reset = false) ∧
    (encode (.beq 0x05) = some [0xF0, 0x05] ∧ setsPc (.beq 0x05) State.reset = false) ∧
    (encode (.sta (.absolute 0xFFFF)) = some [0x8D, 0xFF, 0xFF] ∧
      setsPc (.sta (.absolute 0xFFFF)) State.reset = false) := by decide

/-- The invariant holds at reset, and a step is taken there: a BRK, memory being zero. -/
theorem witness_StepKeeps : State.reset.Inv ∧ ∃ t, step State.reset = .next t ∧ t.p = 0x10 :=
  ⟨⟨rfl, rfl⟩, _, rfl, by decide⟩

theorem witness_ResetEstablishes : (cells [(0x0000, 0x01), (0xFFFF, 0x80)] State.reset).mem.wf = true := by decide

theorem witness_CyclesIsOnlyATally :
    (∃ t, exec .nop State.reset = .next t ∧ t.cycles = 9) ∧ ∃ t, step State.reset = .next t ∧ t.cycles = 15 :=
  ⟨⟨_, rfl, rfl⟩, _, rfl, rfl⟩

theorem witness_InterruptAndDecimal_writers :
    (∃ t, exec .sei State.reset = .next t ∧ t.p = 0x04) ∧ (∃ t, exec .sed State.reset = .next t ∧ t.p = 0x08) ∧
      ∃ t, exec .plp { State.reset with sp := 0xFE } = .next t ∧ t.p = 0x00 :=
  ⟨⟨_, rfl, by decide⟩, ⟨_, rfl, by decide⟩, _, rfl, by decide⟩

theorem witness_InterruptAndDecimal_readers :
    (Instr.brk ≠ .php) ∧ ∀ k, k < 8 → k ∉ [2, 3] → (0x0C#8).getLsbD k = State.reset.p.getLsbD k := by decide

theorem witness_BreakBit : ∃ t, exec .brk State.reset = .next t ∧ t.p.getLsbD 4 = true := ⟨_, rfl, by decide⟩

theorem witness_ArithmeticFlags_c_v :
    (∃ t, exec .inx State.reset = .next t) ∧
      (Instr.inx.mnemonic ∉ ["ADC", "SBC", "CMP", "CPX", "CPY", "ASL", "ROL", "LSR", "ROR", "CLC", "SEC", "PLP", "RTI"]) ∧
      (Instr.inx.mnemonic ∉ ["ADC", "SBC", "BIT", "CLV", "PLP", "RTI"]) ∧ State.reset.p.getLsbD 5 = false :=
  ⟨⟨_, rfl⟩, by decide, by decide, by decide⟩

theorem witness_ArithmeticFlags_z_n :
    (∃ t, exec .txs State.reset = .next t) ∧
      Instr.txs.mnemonic ∉ ["ADC", "SBC", "AND", "ORA", "EOR", "ASL", "LSR", "ROL", "ROR", "INC", "DEC", "INX", "DEX",
        "INY", "DEY", "LDA", "LDX", "LDY", "TAX", "TAY", "TSX", "TXA", "TYA", "PLA", "CMP", "CPX", "CPY", "BIT", "PLP",
        "RTI"] :=
  ⟨⟨_, rfl⟩, by decide⟩

/-- A shift in memory meets all four clauses together: it writes none of A, X, Y, SP. -/
theorem witness_RegistersHaveTheListedWriters :
    (∃ t, exec (.asl (.mem (.zeroPage 0x10))) State.reset = .next t) ∧
      (Instr.asl (.mem (.zeroPage 0x10))).mnemonic ∉
        ["ADC", "SBC", "AND", "ORA", "EOR", "LDA", "PLA", "TXA", "TYA"] ∧
      (Instr.asl (.mem (.zeroPage 0x10))).mode ≠ .accumulator ∧
      (Instr.asl (.mem (.zeroPage 0x10))).mnemonic ∉ ["LDX", "TAX", "TSX", "INX", "DEX"] ∧
      (Instr.asl (.mem (.zeroPage 0x10))).mnemonic ∉ ["LDY", "TAY", "INY", "DEY"] ∧
      (Instr.asl (.mem (.zeroPage 0x10))).mnemonic ∉
        ["PHA", "PHP", "JSR", "PLA", "PLP", "RTS", "RTI", "TXS"] :=
  ⟨⟨_, rfl⟩, by decide, by decide, by decide, by decide, by decide⟩

theorem witness_MemoryChangesOnlyWhereStored :
    (∃ t, exec (.jsr 0x0610) { State.reset with sp := 0x00 } = .next t) ∧
      storedAddresses (.jsr 0x0610) { State.reset with sp := 0x00 } = [0x0100, 0x01FF] ∧
      0x0200#16 ∉ storedAddresses (.jsr 0x0610) { State.reset with sp := 0x00 } :=
  ⟨⟨_, rfl⟩, by decide, by decide⟩

theorem witness_EveryInstructionChargesItsListedTotal :
    (∃ t, exec .brk State.reset = .next t ∧ t.cycles = 15) ∧
      ∃ t, exec (.bne 0xFD) State.reset = .next t ∧ t.cycles = 13 ∧ setsPc (.bne 0xFD) State.reset = true :=
  ⟨⟨_, rfl, rfl⟩, _, rfl, by decide, by decide⟩

theorem witness_CanonicalMemories :
    Memory.wf [(0x0000, 0x01), (0xFFFF, 0x80)] = true ∧
      ∀ addr : Word, memRead [(0x0000, 0x01), (0xFFFF, 0x80)] addr = memRead [(0x0000, 0x01), (0xFFFF, 0x80)] addr :=
  ⟨by decide, fun _ => rfl⟩

/-- Each store over each of the three bytes, the last of them beyond $FFFF. -/
theorem witness_StoreIsSeen :
    (∃ t, exec (.sta (.absolute 0x0603)) State.reset = .next t ∧ memAddress (.absolute 0x0603) State.reset = t.pc) ∧
      (∃ t, exec (.stx (.absolute 0x0604)) State.reset = .next t ∧
        memAddress (.absolute 0x0604) State.reset = t.pc + 1) ∧
      ∃ t, exec (.sty (.absolute 0x0000)) { State.reset with pc := 0xFFFB } = .next t ∧
        memAddress (.absolute 0x0000) { State.reset with pc := 0xFFFB } = t.pc + 2 :=
  ⟨⟨_, rfl, by decide⟩, ⟨_, rfl, by decide⟩, _, rfl, by decide⟩

theorem witness_SbcIsAdcOfTheComplement :
    readValue (.immediate 0xFC) State.reset = ~~~readValue (.immediate 0x03) State.reset ∧
      readValue (.immediate 0xFF) State.reset = ~~~readValue (.mem (.zeroPage 0x10)) State.reset := by decide

theorem witness_RotatesCycleNineBits :
    ∃ t, exec (.rol .accumulator) { State.reset with a := 0x80 } = .next t ∧ t.a = 0x00 ∧ t.p = 0x03 :=
  ⟨_, rfl, by decide, by decide⟩

theorem witness_PopUndoesPush : ∃ t, exec .pha { State.reset with a := 0xB7, sp := 0x00 } = .next t ∧ t.sp = 0xFF :=
  ⟨_, rfl, by decide⟩

theorem witness_StackWraps_ends :
    ({ State.reset with sp := 0x00 } : State).sp = 0x00 ∧ State.reset.sp = 0xFF ∧
      (List.replicate 256 (0x5A : Byte)).length = 256 :=
  ⟨rfl, rfl, List.length_replicate⟩

theorem witness_StackWraps_outside :
    ((Instr.pha ∈ [Instr.pha, .php] ∨ ∃ w, Instr.pha = .jsr w) ∧ ∃ t, exec .pha State.reset = .next t) ∧
      ((Instr.jsr 0x0610 ∈ [Instr.pha, .php] ∨ ∃ w, Instr.jsr 0x0610 = .jsr w) ∧
        ∃ t, exec (.jsr 0x0610) State.reset = .next t) ∧
      (0x00FF#16).toNat < 0x0100 ∧ 0x01FF < (0x0200#16).toNat :=
  ⟨⟨.inl (by decide), _, rfl⟩, ⟨.inr ⟨_, rfl⟩, _, rfl⟩, by decide, by decide⟩

theorem witness_RtsUndoesJsr : ∃ t, exec (.jsr 0x0610) { State.reset with pc := 0xFFFE } = .next t ∧ t.pc = 0x0610 :=
  ⟨_, rfl, rfl⟩

/-- From reset with memory zero the run ends with the first step, a BRK; P already having B set does not end it
sooner. -/
theorem witness_RunEndsAtTheFirstStep :
    (∃ t, runLoop 1 State.reset = some t ∧ times (stepWith defaultCosts) 1 State.reset = .next t ∧ t.p.getLsbD 4 = true) ∧
      ∃ t, runLoop 1 { State.reset with p := 0x10 } = some t ∧ t.pc = 0x0601 :=
  ⟨⟨_, rfl, rfl, by decide⟩, _, rfl, by decide⟩

theorem witness_RunEndsAtABreakByte : readByte State.reset State.reset.pc = 0x00 := by decide

/-- Parameters that are not the defaults. -/
def otherCosts : Costs := { fetch := 3, own := fun _ => 10 }

theorem witness_CycleParameters :
    (∃ t, exec .clc State.reset = .next t ∧ chargeOf otherCosts .clc State.reset t = 13) ∧
      ∃ t, step State.reset = .next t ∧ chargeOf otherCosts .brk State.reset t = 9 :=
  ⟨⟨_, rfl, rfl⟩, _, rfl, rfl⟩

/-- The own cost of CLC is the parameter (R251); those of NOP, BRK and the branches are the document's. -/
theorem test_costs_are_arguments :
    [ownCost .clc otherCosts, ownCost .nop otherCosts, ownCost .brk otherCosts, ownCost (.bne 0x00) otherCosts,
      ownCost .clc, fetchCost otherCosts, fetchCost] = [10, 0, 6, 0, 1, 3, 1] := by decide

theorem witness_ReadReturnsTheLatestWrite : State.reset.mem = (resetCore State.reset).mem := rfl

end Sys2Proof.Tests
end

section
/-! The cycle parameters reach `cycles` only: R250's sum as `chargeOf` writes it is what the model charges, no
meaning reads `cycles`, and so neither does a step or a run (spec/00_scope.md R4, R25, R250). -/

namespace Sys2Proof.Machine

open Sys2Proof.Claims

/-! ### The words of the claims and the model's own: page crossing, penalty, own cost, charge -/

theorem add_zext16_eq_ofNat (base : Word) (b : Byte) :
    base + zext16 b = BitVec.ofNat 16 (base.toNat + b.toNat) := by
  have hb := b.isLt
  apply BitVec.eq_of_toNat_eq
  simp only [zext16, BitVec.toNat_add, BitVec.toNat_setWidth, BitVec.toNat_ofNat]
  omega

/-- The page of an address, as the mask `$FF00` leaves it (R94). -/
theorem toNat_and_pageMask (w : Word) : (w &&& 0xFF00#16).toNat = 256 * (w.toNat / 256) := by
  have hw := w.isLt
  have hmask : w &&& 0xFF00#16 = w >>> 8 <<< 8 := by rw [BitVec.shiftLeft_ushiftRight]; rfl
  rw [hmask, BitVec.toNat_shiftLeft, BitVec.toNat_ushiftRight, Nat.shiftLeft_eq, Nat.shiftRight_eq_div_pow]
  omega

theorem pageCross_toNat_eq_crossing (base ea : Word) : (pageCross base ea).toNat = crossing base ea := by
  have hpage : base &&& 0xFF00#16 = ea &&& 0xFF00#16 ↔ base.toNat / 256 = ea.toNat / 256 := by
    rw [← BitVec.toNat_inj, toNat_and_pageMask, toNat_and_pageMask]
    omega
  by_cases h : base.toNat / 256 = ea.toNat / 256
  · rw [crossing, if_pos h, pageCross, hpage.mpr h, bne_self_eq_false, Bool.toNat_false]
  · rw [crossing, if_neg h, pageCross, bne_iff_ne.mpr (mt hpage.mp h), Bool.toNat_true]

theorem penaltyOf_eq_operandPenalty (o : Operand) (s : State) : penaltyOf o s = operandPenalty o s := by
  cases o with
  | mem m =>
    cases m with
    | absoluteX base | absoluteY base | indirectY zp =>
      simp only [penaltyOf, operandPenalty, memPenalty, pageCross_toNat_eq_crossing, add_zext16_eq_ofNat]
    | _ => rfl
  | _ => rfl

theorem ownOf_eq_ownCost (c : Costs) (i : Instr) : ownOf c i = ownCost i c := by cases i <;> rfl

/-- A branch is charged beyond `instrCost` when it is taken (R190, R250). -/
theorem chargeOf_of_relative {i : Instr} {off : Byte} (hi : i.operand = .relative off) (c : Costs) (s t : State) :
    chargeOf c i s t =
      instrCost i s c + if setsPc i s then 1 + crossing (BitVec.ofNat 16 (s.pc.toNat + 2)) t.pc else 0 := by
  simp only [chargeOf, instrCost, fetchCost, penaltyOf_eq_operandPenalty, ownOf_eq_ownCost, hi]

theorem chargeOf_of_not_relative {i : Instr} (hi : ∀ off, i.operand ≠ .relative off) (c : Costs) (s t : State) :
    chargeOf c i s t = instrCost i s c := by
  unfold chargeOf
  split
  · exact absurd ‹_› (hi _)
  · simp only [instrCost, fetchCost, penaltyOf_eq_operandPenalty, ownOf_eq_ownCost, Nat.add_zero]

/-! ### What an instruction does under other parameters and from another tally -/

/-- Every instruction completes, whatever the cycle parameters (R220). -/
theorem execWith_completes (c : Costs) (i : Instr) (s : State) : ∃ t, execWith c i s = .next t := by
  cases i <;> exact ⟨_, rfl⟩

theorem readOperand_ne_relative (o : ReadOperand) (off : Byte) : o.operand ≠ .relative off := by
  cases o <;> exact nofun

theorem rmwOperand_ne_relative (o : RmwOperand) (off : Byte) : o.operand ≠ .relative off := by
  cases o <;> exact nofun

theorem jumpOperand_ne_relative (o : JumpOperand) (off : Byte) : o.operand ≠ .relative off := by
  cases o <;> exact nofun

/-- The instructions with a Relative operand are the branches: each issues and then does `Branch` (R190). -/
theorem execWith_of_relative {i : Instr} {off : Byte} (hi : i.operand = .relative off) (c : Costs) (s : State) :
    execWith c i s = .next (branch (setsPc i s) off (issue i s c)) := by
  cases i with
  | bcc d | bcs d | beq d | bne d | bmi d | bpl d | bvc d | bvs d => cases hi; rfl
  | adc o | sbc o | and o | ora o | eor o | cmp o | cpx o | cpy o | lda o | ldx o | ldy o =>
    exact absurd hi (readOperand_ne_relative o off)
  | asl o | lsr o | rol o | ror o => exact absurd hi (rmwOperand_ne_relative o off)
  | jmp o => exact absurd hi (jumpOperand_ne_relative o off)
  | _ => cases hi

/-- No meaning and no addressing mode reads `cycles` (R25), so an instruction that is no branch adds its `instrCost`
to whatever tally it starts from, and the rest of its result is the same. -/
theorem execWith_with_cycles_of_not_relative {i : Instr} (hi : ∀ off, i.operand ≠ .relative off) {c : Costs}
    {s t : State} (h : execWith c i s = .next t) (c' : Costs) (n : Nat) :
    execWith c' i { s with cycles := n } = .next { t with cycles := n + instrCost i s c' } := by
  cases i with
  | bcc d | bcs d | beq d | bne d | bmi d | bpl d | bvc d | bvs d => exact absurd rfl (hi d)
  | adc o | sbc o | and o | ora o | eor o | cmp o | cpx o | cpy o | lda o | ldx o | ldy o =>
    cases h
    cases o with
    | immediate v => rfl
    | mem m => cases m <;> rfl
  | asl o | lsr o | rol o | ror o =>
    cases h
    cases o with
    | accumulator => rfl
    | mem m => cases m <;> rfl
  | bit m | inc m | dec m | sta m | stx m | sty m => cases h; cases m <;> rfl
  | jmp o => cases h; cases o <;> rfl
  | _ => cases h; rfl

/-- The rest of an issued state does not depend on the tally or the parameters. -/
theorem issue_with_cycles (i : Instr) (s : State) (n : Nat) (c c' : Costs) :
    issue i { s with cycles := n } c' = { issue i s c with cycles := n + instrCost i s c' } := by
  have hpenalty : operandPenalty i.operand { s with cycles := n } = operandPenalty i.operand s := by
    cases i.operand with
    | mem m => cases m <;> rfl
    | _ => rfl
  rw [issue, instrCost, hpenalty]
  rfl

/-- PC after the two bytes of a Relative instruction (R87). -/
theorem issue_pc_of_relative {i : Instr} {off : Byte} (hi : i.operand = .relative off) (s : State) (c : Costs) :
    (issue i s c).pc = BitVec.ofNat 16 (s.pc.toNat + 2) := by
  have hlen : instrLength i = 2 := by rw [instrLength, Instr.mode, hi]; rfl
  rw [issue_pc, hlen, BitVec.ofNat_add, BitVec.ofNat_toNat, BitVec.setWidth_eq]

/-- What `Branch` adds to any tally (R190). -/
theorem branch_with_cycles (taken : Bool) (off : Byte) (s : State) (n : Nat) :
    branch taken off { s with cycles := n } =
      { branch taken off s with
        cycles := n + if taken then 1 + crossing s.pc (branch taken off s).pc else 0 } := by
  cases taken with
  | false => rfl
  | true => simp only [branch_spec, if_true, pageCross_toNat_eq_crossing, Nat.add_assoc]

theorem setsPc_with_cycles (i : Instr) (s : State) (n : Nat) : setsPc i { s with cycles := n } = setsPc i s := by
  cases i <;> rfl

/-- A branch adds its `instrCost` and, taken, what `Branch` adds, to whatever tally it starts from. -/
theorem execWith_with_cycles_of_relative {i : Instr} {off : Byte} (hi : i.operand = .relative off) {c : Costs}
    {s t : State} (h : execWith c i s = .next t) (c' : Costs) (n : Nat) :
    execWith c' i { s with cycles := n } = .next { t with cycles := n + chargeOf c' i s t } := by
  rw [execWith_of_relative hi] at h ⊢
  cases h
  rw [setsPc_with_cycles, issue_with_cycles i s n c c', branch_with_cycles, chargeOf_of_relative hi,
    issue_pc_of_relative hi, Nat.add_assoc]

/-- Whatever the parameters and the tally it starts from, an instruction adds R250's sum to the tally, and the rest of
its result is the same. -/
theorem execWith_with_cycles {c : Costs} {i : Instr} {s t : State} (h : execWith c i s = .next t) (c' : Costs)
    (n : Nat) :
    execWith c' i { s with cycles := n } = .next { t with cycles := n + chargeOf c' i s t } := by
  by_cases hi : ∃ off, i.operand = .relative off
  · obtain ⟨off, hi⟩ := hi
    exact execWith_with_cycles_of_relative hi h c' n
  · have hi' : ∀ off, i.operand ≠ .relative off := fun off h => hi ⟨off, h⟩
    rw [chargeOf_of_not_relative hi']
    exact execWith_with_cycles_of_not_relative hi' h c' n

/-! ### The run loop -/

theorem halted_with_cycles (s : State) (n : Nat) : halted { s with cycles := n } = halted s := rfl

theorem runLoop_succ {c : Costs} {s t : State} (h : stepWith c s = .next t) (fuel : Nat) :
    runLoop (fuel + 1) s c = if halted t then some t else runLoop fuel t c := by
  rw [runLoop, h]

/-- Two runs from states alike but for `cycles` end after as many steps, in states alike but for `cycles`, or neither
ends. -/
theorem runLoop_map_with_cycles (c c' : Costs) (fuel : Nat) (s : State) (n : Nat) :
    (runLoop fuel s c).map (fun t => { t with cycles := 0 }) =
      (runLoop fuel { s with cycles := n } c').map (fun t => { t with cycles := 0 }) := by
  induction fuel generalizing s n with
  | zero => rfl
  | succ fuel ih =>
    obtain ⟨t, ht⟩ := execWith_completes c (fetchInstr s) s
    have ht' : stepWith c' { s with cycles := n } = _ := execWith_with_cycles ht c' n
    rw [runLoop_succ ht, runLoop_succ ht', halted_with_cycles t (n + _)]
    cases halted t with
    | true => rfl
    | false => exact ih t _

/-- Settles O53: `exec` and `step` are the machine at the default parameters, and other parameters, on the same state,
change the charge alone (`execWith_with_cycles`, `runLoop_map_with_cycles`). -/
theorem cycleParametersReachCyclesOnly : Obligations.CycleParametersReachCyclesOnly := by
  refine ⟨⟨fun i s => (execWith_defaultCosts i s).symm, fun s => (stepWith_defaultCosts s).symm⟩,
    fun c i s t h => ?_, fun c s t h => ?_, fun c c' fuel s => runLoop_map_with_cycles c c' fuel s s.cycles⟩
  · rw [← execWith_defaultCosts] at h
    exact execWith_with_cycles h c s.cycles
  · rw [← stepWith_defaultCosts] at h
    exact execWith_with_cycles h c s.cycles

end Sys2Proof.Machine
end

section
/-! Who writes the status byte (spec/10_state.md R15 to R22, R181, R202): the bits each mnemonic may write, with the
proof that no instruction writes another, and from it what is said of B, C, Z, V, N and bit 5. -/

namespace Sys2Proof.Machine

open Sys2Proof.Claims

/-! ### Status bytes that differ in listed bits only -/

/-- `q` is `p` but for the bits listed in `ws`. -/
def SameBits (ws : List Nat) (p q : Byte) : Prop := ∀ k, k < 8 → k ∉ ws → q.getLsbD k = p.getLsbD k

theorem SameBits.refl (ws : List Nat) (p : Byte) : SameBits ws p p := fun _ _ _ => rfl

/-- A written flag may be any of the listed bits. -/
theorem SameBits.write {ws : List Nat} {p q : Byte} (h : SameBits ws p q) {f : Flag} (hf : flagBit f ∈ ws)
    (on : Bool) : SameBits ws p (setFlag f on q) := fun k hk hw => by
  rw [getLsbD_setFlag f on q hk, if_neg (ne_of_mem_of_not_mem hf hw).symm, h k hk hw]

theorem sameBits_setZN (v p : Byte) : SameBits [1, 7] p (setZN v p) :=
  ((SameBits.refl _ p).write (f := .z) (by decide) _).write (f := .n) (by decide) _

theorem sameBits_arithFlags (c v : Bool) (r p : Byte) : SameBits [0, 1, 6, 7] p (arithFlags c v r p) :=
  ((((SameBits.refl _ p).write (f := .c) (by decide) _).write (f := .v) (by decide) _).write (f := .z)
    (by decide) _).write (f := .n) (by decide) _

theorem sameBits_compareFlags (r m p : Byte) : SameBits [0, 1, 7] p (compareFlags r m p) :=
  (((SameBits.refl _ p).write (f := .c) (by decide) _).write (f := .z) (by decide) _).write (f := .n) (by decide) _

theorem sameBits_bitFlags (a m p : Byte) : SameBits [1, 6, 7] p (bitFlags a m p) :=
  (((SameBits.refl _ p).write (f := .z) (by decide) _).write (f := .v) (by decide) _).write (f := .n) (by decide) _

theorem sameBits_shiftFlags (c : Bool) (r p : Byte) : SameBits [0, 1, 7] p (shiftFlags c r p) :=
  (((SameBits.refl _ p).write (f := .c) (by decide) _).write (f := .z) (by decide) _).write (f := .n) (by decide) _

/-! ### The status bits of each mnemonic -/

/-- The status bits, by their numbers in R14, that an instruction of a mnemonic may write. -/
def statusWrites : Mnemonic → List Nat
  | .adc | .sbc => [0, 1, 6, 7]
  | .cmp | .cpx | .cpy | .asl | .lsr | .rol | .ror => [0, 1, 7]
  | .bit => [1, 6, 7]
  | .and | .ora | .eor | .lda | .ldx | .ldy | .pla | .inc | .dec => [1, 7]
  | .inx | .dex | .iny | .dey | .tax | .tay | .tsx | .txa | .tya => [1, 7]
  | .clc | .sec => [0]
  | .cli | .sei => [2]
  | .cld | .sed => [3]
  | .brk => [4]
  | .clv => [6]
  | .plp | .rti => [0, 1, 2, 3, 4, 5, 6, 7]
  | .nop | .sta | .stx | .sty | .txs | .pha | .php => []
  | .bcc | .bcs | .beq | .bne | .bmi | .bpl | .bvc | .bvs | .jmp | .jsr | .rts => []

/-- No instruction writes a status bit that its mnemonic does not list. -/
theorem exec_keepsStatus {i : Instr} {s t : State} (h : exec i s = .next t) :
    KeepsStatus (statusWrites i.op) s t := by
  cases i with
  | adc o | sbc o => cases h; exact sameBits_arithFlags _ _ _ _
  | cmp o | cpx o | cpy o => cases h; exact sameBits_compareFlags _ _ _
  | asl o | lsr o | rol o | ror o =>
    cases h; rw [KeepsStatus, writeBack_p]; exact sameBits_shiftFlags _ _ _
  | bit m => cases h; exact sameBits_bitFlags _ _ _
  | and o | ora o | eor o | lda o | ldx o | ldy o | inc m | dec m => cases h; exact sameBits_setZN _ _
  | pla | inx | dex | iny | dey | tax | tay | tsx | txa | tya => cases h; exact sameBits_setZN _ _
  | clc | sec | cli | sei | cld | sed | clv | brk => cases h; exact (SameBits.refl _ s.p).write (by decide) _
  | plp | rti =>
    intro k hk hw
    exact absurd ((by decide : ∀ k < 8, k ∈ [0, 1, 2, 3, 4, 5, 6, 7]) k hk) hw
  | bcc d | bcs d | beq d | bne d | bmi d | bpl d | bvc d | bvs d =>
    cases h; rw [KeepsStatus, branch_p]; exact SameBits.refl _ _
  | _ => cases h; exact SameBits.refl _ _

/-! ### The bits PLP and RTI load -/

/-- The stack cell of the claims is the model's stack location (R12). -/
theorem stackCell_eq_stackAddr (n : Nat) : stackCell n = stackAddr (BitVec.ofNat 8 n) := by
  apply BitVec.eq_of_toNat_eq
  rw [stackAddr_toNat, stackCell, BitVec.toNat_ofNat, BitVec.toNat_ofNat]
  omega

theorem topByte_eq_popByte (s : State) : topByte s = popByte s := by
  rw [topByte, popByte, stackCell_eq_stackAddr, BitVec.ofNat_add, BitVec.ofNat_toNat, BitVec.setWidth_eq]
  rfl

/-- PLP and RTI load the popped byte, but for bit 5 (R181, R202). -/
theorem exec_loads_topByte {i : Instr} {s t : State} (hi : i = .plp ∨ i = .rti) (h : exec i s = .next t) {k : Nat}
    (hk : k < 8) (h5 : k ≠ 5) : t.p.getLsbD k = (topByte s).getLsbD k := by
  have hp : t.p = loadStatus (popByte s) := by obtain rfl | rfl := hi <;> cases h <;> rfl
  rw [hp, getLsbD_loadStatus _ hk, if_neg h5, topByte_eq_popByte]

/-- Bit 5 is loaded by PLP and RTI alone, and as 0 (R20; D5, log entry 8). -/
theorem exec_keeps_bit5_clear {i : Instr} {s t : State} (h : exec i s = .next t) (hs : s.p.getLsbD 5 = false) :
    t.p.getLsbD 5 = false := by
  cases i with
  | plp | rti => cases h; exact getLsbD_loadStatus _ (by decide)
  | _ => exact (exec_keepsStatus h 5 (by decide) nofun).trans hs

/-- Settles O13: B is bit 4, which the table of status writes gives to BRK, PLP and RTI alone. -/
theorem breakBitHasThreeWriters : Obligations.BreakBitHasThreeWriters := by
  refine ⟨fun i s t h => ?_, fun _ => BitVec.getLsbD_zero⟩
  cases i with
  | brk => cases h; exact getLsbD_setFlag .b true _ (by decide)
  | plp => exact exec_loads_topByte (.inl rfl) h (by decide) (by decide)
  | rti => exact exec_loads_topByte (.inr rfl) h (by decide) (by decide)
  | _ => exact exec_keepsStatus h 4 (by decide) nofun

/-! ### The mnemonics that may write C, Z and N, and V (R15, R16, R21, R22) -/

theorem carry_notMem_statusWrites {m : Mnemonic}
    (hm : m.name ∉ ["ADC", "SBC", "CMP", "CPX", "CPY", "ASL", "ROL", "LSR", "ROR", "CLC", "SEC", "PLP", "RTI"]) :
    0 ∉ statusWrites m := by
  cases m <;> revert hm <;> decide

theorem zero_negative_notMem_statusWrites {m : Mnemonic}
    (hm : m.name ∉ ["ADC", "SBC", "AND", "ORA", "EOR", "ASL", "LSR", "ROL", "ROR", "INC", "DEC", "INX", "DEX", "INY",
      "DEY", "LDA", "LDX", "LDY", "TAX", "TAY", "TSX", "TXA", "TYA", "PLA", "CMP", "CPX", "CPY", "BIT", "PLP",
      "RTI"]) :
    1 ∉ statusWrites m ∧ 7 ∉ statusWrites m := by
  cases m <;> revert hm <;> decide

theorem overflow_notMem_statusWrites {m : Mnemonic}
    (hm : m.name ∉ ["ADC", "SBC", "BIT", "CLV", "PLP", "RTI"]) : 6 ∉ statusWrites m := by
  cases m <;> revert hm <;> decide

/-- Settles O14: the mnemonics that may write bit 0, 1 and 7, or 6 are those listed, and what PLP and RTI load has bit 5
clear. -/
theorem arithmeticFlagsHaveTheListedWriters : Obligations.ArithmeticFlagsHaveTheListedWriters := by
  intro i s t h
  have hkeep := exec_keepsStatus h
  refine ⟨fun hm => ?_, fun hm => ?_, fun hm => ?_, exec_keeps_bit5_clear h⟩
  · exact hkeep 0 (by decide) (carry_notMem_statusWrites hm)
  · obtain ⟨hz, hn⟩ := zero_negative_notMem_statusWrites hm
    exact ⟨hkeep 1 (by decide) hz, hkeep 7 (by decide) hn⟩
  · exact hkeep 6 (by decide) (overflow_notMem_statusWrites hm)

end Sys2Proof.Machine
end

section
/-! Who writes A, X, Y and SP (spec/10_state.md R12, R13, spec/42_shift_rotate.md R120). -/

namespace Sys2Proof.Machine

theorem exec_keeps_a {i : Instr} {s t : State} (h : exec i s = .next t)
    (hm : i.mnemonic ∉ ["ADC", "SBC", "AND", "ORA", "EOR", "LDA", "PLA", "TXA", "TYA"])
    (hmode : i.mode ≠ .accumulator) : t.a = s.a := by
  cases i with
  | adc o | sbc o | and o | ora o | eor o | lda o => exact absurd (of_decide_eq_true rfl) hm
  | pla | txa | tya => exact absurd (of_decide_eq_true rfl) hm
  | asl o | lsr o | rol o | ror o =>
    cases o with
    | accumulator => exact absurd rfl hmode
    | mem m => cases h; rfl
  | bcc d | bcs d | beq d | bne d | bmi d | bpl d | bvc d | bvs d => cases h; exact branch_a _ _ _
  | _ => cases h; rfl

theorem exec_keeps_x {i : Instr} {s t : State} (h : exec i s = .next t)
    (hm : i.mnemonic ∉ ["LDX", "TAX", "TSX", "INX", "DEX"]) : t.x = s.x := by
  cases i with
  | ldx o => exact absurd (of_decide_eq_true rfl) hm
  | tax | tsx | inx | dex => exact absurd (of_decide_eq_true rfl) hm
  | asl o | lsr o | rol o | ror o => cases h; exact writeBack_x _ _ _ _
  | bcc d | bcs d | beq d | bne d | bmi d | bpl d | bvc d | bvs d => cases h; exact branch_x _ _ _
  | _ => cases h; rfl

theorem exec_keeps_y {i : Instr} {s t : State} (h : exec i s = .next t)
    (hm : i.mnemonic ∉ ["LDY", "TAY", "INY", "DEY"]) : t.y = s.y := by
  cases i with
  | ldy o => exact absurd (of_decide_eq_true rfl) hm
  | tay | iny | dey => exact absurd (of_decide_eq_true rfl) hm
  | asl o | lsr o | rol o | ror o => cases h; exact writeBack_y _ _ _ _
  | bcc d | bcs d | beq d | bne d | bmi d | bpl d | bvc d | bvs d => cases h; exact branch_y _ _ _
  | _ => cases h; rfl

theorem exec_keeps_sp {i : Instr} {s t : State} (h : exec i s = .next t)
    (hm : i.mnemonic ∉ ["PHA", "PHP", "JSR", "PLA", "PLP", "RTS", "RTI", "TXS"]) : t.sp = s.sp := by
  cases i with
  | jsr w => exact absurd (of_decide_eq_true rfl) hm
  | pha | php | pla | plp | rts | rti | txs => exact absurd (of_decide_eq_true rfl) hm
  | asl o | lsr o | rol o | ror o => cases h; exact writeBack_sp _ _ _ _
  | bcc d | bcs d | beq d | bne d | bmi d | bpl d | bvc d | bvs d => cases h; exact branch_sp _ _ _
  | _ => cases h; rfl

/-- Settles O15: each register is kept by every instruction outside its list. -/
theorem registersHaveTheListedWriters : Obligations.RegistersHaveTheListedWriters :=
  fun _ _ _ h => ⟨exec_keeps_a h, exec_keeps_x h, exec_keeps_y h, exec_keeps_sp h⟩

end Sys2Proof.Machine
end

section
/-! The invariant (spec/10_state.md R20, R26): bit 5 of P stays 0, and memory stays in its canonical form, since every
store goes through `memWrite`. -/

namespace Sys2Proof.Machine

theorem exec_keeps_memory_wf {i : Instr} {s t : State} (h : exec i s = .next t) (hs : s.mem.wf = true) :
    t.mem.wf = true := by
  have hissue : (issue i s).mem.wf = true := hs
  cases i with
  | sta m | stx m | sty m => cases h; exact writeByte_wf hissue _ _
  | inc m | dec m => cases h; exact storeResult_wf hissue _ _
  | asl o | lsr o | rol o | ror o => cases h; exact writeBack_wf hissue _ _ _
  | pha | php => cases h; exact push_wf hissue _
  | jsr w => cases h; exact pushWord_wf hissue _
  | bcc d | bcs d | beq d | bne d | bmi d | bpl d | bvc d | bvs d => cases h; rwa [branch_mem]
  | _ => cases h; exact hs

theorem exec_keeps_inv {i : Instr} {s t : State} (h : exec i s = .next t) (hs : s.Inv) : t.Inv := by
  obtain ⟨hbit5, hmem⟩ := hs
  exact ⟨exec_keeps_bit5_clear h hbit5, exec_keeps_memory_wf h hmem⟩

/-- Settles O8: a step is an instruction's meaning, and every instruction keeps both halves of the invariant. -/
theorem stepKeepsBit5ClearAndMemoryCanonical : Obligations.StepKeepsBit5ClearAndMemoryCanonical :=
  fun _ _ hs h => exec_keeps_inv h hs

end Sys2Proof.Machine
end

section
/-! The cycle tally (spec/10_state.md R25): what an instruction adds to it does not depend on it, by
`execWith_with_cycles` at the default parameters. -/

namespace Sys2Proof.Machine

open Sys2Proof.Claims

theorem exec_with_cycles {i : Instr} {s t : State} (h : exec i s = .next t) (n : Nat) :
    exec i { s with cycles := n } = .next { t with cycles := n + chargeOf defaultCosts i s t } := by
  rw [← execWith_defaultCosts] at h ⊢
  exact execWith_with_cycles h defaultCosts n

/-- An instruction charges R250's sum at the default parameters. -/
theorem exec_cycles {i : Instr} {s t : State} (h : exec i s = .next t) :
    t.cycles = s.cycles + chargeOf defaultCosts i s t := by
  have hself := h.symm.trans (exec_with_cycles h s.cycles)
  injection hself with ht
  exact congrArg State.cycles ht

/-- An instruction adds to the tally, and adds the same whatever the tally is. -/
theorem exec_tally {i : Instr} {s t : State} (h : exec i s = .next t) :
    s.cycles ≤ t.cycles ∧
      ∀ n, exec i { s with cycles := n } = .next { t with cycles := n + (t.cycles - s.cycles) } := by
  have hcharge := exec_cycles h
  refine ⟨by omega, fun n => ?_⟩
  rw [exec_with_cycles h, show t.cycles - s.cycles = chargeOf defaultCosts i s t by omega]

/-- Settles O11: a step fetches the same instruction whatever the tally is, and `exec_tally` says what it adds. -/
theorem cyclesIsOnlyATally : Obligations.CyclesIsOnlyATally :=
  ⟨rfl, fun _ => rfl, fun _ _ _ h => exec_tally h, fun _ _ h => exec_tally h⟩

end Sys2Proof.Machine
end

section
/-! I and D are read by PHP alone (spec/10_state.md R17, R18): no operand, address or charge depends on P, and the
operations that read a flag read C, Z, V or N. -/

namespace Sys2Proof.Machine

open Sys2Proof.Claims

/-! ### The flag computations on two status bytes alike but for listed bits -/

theorem SameBits.setFlag {ws : List Nat} {p q : Byte} (h : SameBits ws p q) (f : Flag) (on : Bool) :
    SameBits ws (setFlag f on p) (setFlag f on q) := fun k hk hw => by
  rw [getLsbD_setFlag f on q hk, getLsbD_setFlag f on p hk, h k hk hw]

theorem SameBits.setZN {ws : List Nat} {p q : Byte} (h : SameBits ws p q) (v : Byte) :
    SameBits ws (setZN v p) (setZN v q) := (h.setFlag .z _).setFlag .n _

theorem SameBits.arithFlags {ws : List Nat} {p q : Byte} (h : SameBits ws p q) (c v : Bool) (r : Byte) :
    SameBits ws (arithFlags c v r p) (arithFlags c v r q) := ((h.setFlag .c _).setFlag .v _).setZN _

theorem SameBits.compareFlags {ws : List Nat} {p q : Byte} (h : SameBits ws p q) (r m : Byte) :
    SameBits ws (compareFlags r m p) (compareFlags r m q) := (h.setFlag .c _).setZN _

theorem SameBits.bitFlags {ws : List Nat} {p q : Byte} (h : SameBits ws p q) (a m : Byte) :
    SameBits ws (bitFlags a m p) (bitFlags a m q) := ((h.setFlag .z _).setFlag .v _).setFlag .n _

theorem SameBits.shiftFlags {ws : List Nat} {p q : Byte} (h : SameBits ws p q) (c : Bool) (r : Byte) :
    SameBits ws (shiftFlags c r p) (shiftFlags c r q) := (h.setFlag .c _).setZN _

/-! ### What does not depend on P -/

theorem memAddress_with_p (m : MemOperand) (s : State) (q : Byte) :
    memAddress m { s with p := q } = memAddress m s := by cases m <;> rfl

theorem memValue_with_p (m : MemOperand) (s : State) (q : Byte) : memValue m { s with p := q } = memValue m s :=
  congrArg (memRead s.mem) (memAddress_with_p m s q)

theorem readValue_with_p (o : ReadOperand) (s : State) (q : Byte) :
    readValue o { s with p := q } = readValue o s := by
  cases o with
  | immediate v => rfl
  | mem m => exact memValue_with_p m s q

theorem rmwValue_with_p (o : RmwOperand) (s : State) (q : Byte) : rmwValue o { s with p := q } = rmwValue o s := by
  cases o with
  | accumulator => rfl
  | mem m => exact memValue_with_p m s q

theorem jumpTarget_with_p (o : JumpOperand) (s : State) (q : Byte) :
    jumpTarget o { s with p := q } = jumpTarget o s := by cases o <;> rfl

theorem issue_with_p (i : Instr) (s : State) (q : Byte) (c : Costs) :
    issue i { s with p := q } c = { issue i s c with p := q } := by
  have hpenalty : operandPenalty i.operand { s with p := q } = operandPenalty i.operand s := by
    cases i.operand with
    | mem m => cases m <;> rfl
    | _ => rfl
  rw [issue, instrCost, hpenalty]
  rfl

/-! ### The operations on two states alike but for I and D -/

/-- `s'` is `s` but for I and D. -/
def AlikeButID (s s' : State) : Prop := ∃ q, s' = { s with p := q } ∧ SameBits [2, 3] s.p q

section
variable {s : State} {q : Byte} (hq : SameBits [2, 3] s.p q)
include hq

theorem carry_with_p : flag .c { s with p := q } = flag .c s := hq 0 (by decide) (by decide)

theorem alike_putA (v : Byte) : AlikeButID (putA v s) (putA v { s with p := q }) := ⟨_, rfl, hq.setZN v⟩

theorem alike_putX (v : Byte) : AlikeButID (putX v s) (putX v { s with p := q }) := ⟨_, rfl, hq.setZN v⟩

theorem alike_putY (v : Byte) : AlikeButID (putY v s) (putY v { s with p := q }) := ⟨_, rfl, hq.setZN v⟩

theorem alike_putFlag (f : Flag) (on : Bool) : AlikeButID (putFlag f on s) (putFlag f on { s with p := q }) :=
  ⟨_, rfl, hq.setFlag f on⟩

theorem alike_compareWith (r m : Byte) : AlikeButID (compareWith r m s) (compareWith r m { s with p := q }) :=
  ⟨_, rfl, hq.compareFlags r m⟩

theorem alike_addWithCarry (m : Byte) : AlikeButID (addWithCarry m s) (addWithCarry m { s with p := q }) := by
  simp only [addWithCarry, carry_with_p hq]
  exact ⟨_, rfl, hq.arithFlags _ _ _⟩

theorem alike_subWithBorrow (m : Byte) : AlikeButID (subWithBorrow m s) (subWithBorrow m { s with p := q }) := by
  simp only [subWithBorrow, carry_with_p hq]
  exact ⟨_, rfl, hq.arithFlags _ _ _⟩

theorem alike_storeResult (m : MemOperand) (r : Byte) :
    AlikeButID (storeResult m r s) (storeResult m r { s with p := q }) := by
  refine ⟨_, ?_, hq.setZN r⟩
  cases m <;> rfl

theorem alike_writeBack (o : RmwOperand) (carry : Bool) (r : Byte) :
    AlikeButID (writeBack o carry r s) (writeBack o carry r { s with p := q }) := by
  refine ⟨shiftFlags carry r q, ?_, by rw [writeBack_p]; exact hq.shiftFlags carry r⟩
  cases o with
  | accumulator => rfl
  | mem m => cases m <;> rfl

theorem alike_branch (taken : Bool) (off : Byte) :
    AlikeButID (branch taken off s) (branch taken off { s with p := q }) := by
  cases taken <;> exact ⟨q, rfl, hq⟩

/-- A branch tests C, Z, V or N (R191 to R198). -/
theorem setsPc_with_p (i : Instr) : setsPc i { s with p := q } = setsPc i s := by
  cases i with
  | bcc d | bne d | bpl d | bvc d => exact congrArg not (hq _ (by decide) (by decide))
  | bcs d | beq d | bmi d | bvs d => exact hq _ (by decide) (by decide)
  | _ => rfl

/-- No instruction but PHP reads I or D. -/
theorem exec_alike {i : Instr} (hi : i ≠ .php) :
    ∃ t t', exec i s = .next t ∧ exec i { s with p := q } = .next t' ∧ AlikeButID t t' := by
  have hissue : SameBits [2, 3] (issue i s).p q := hq
  cases i with
  | php => exact absurd rfl hi
  | bcc d | bcs d | beq d | bne d | bmi d | bpl d | bvc d | bvs d =>
    simp only [← execWith_defaultCosts]
    refine ⟨_, _, execWith_of_relative rfl _ _, execWith_of_relative rfl _ _, ?_⟩
    rw [setsPc_with_p hq, issue_with_p _ s q]
    exact alike_branch hissue _ _
  | adc o =>
    refine ⟨_, _, rfl, rfl, ?_⟩
    rw [readValue_with_p o s q, issue_with_p _ s q]
    exact alike_addWithCarry hissue _
  | sbc o =>
    refine ⟨_, _, rfl, rfl, ?_⟩
    rw [readValue_with_p o s q, issue_with_p _ s q]
    exact alike_subWithBorrow hissue _
  | and o | ora o | eor o | lda o =>
    refine ⟨_, _, rfl, rfl, ?_⟩
    rw [readValue_with_p o s q, issue_with_p _ s q]
    exact alike_putA hissue _
  | ldx o =>
    refine ⟨_, _, rfl, rfl, ?_⟩
    rw [readValue_with_p o s q, issue_with_p _ s q]
    exact alike_putX hissue _
  | ldy o =>
    refine ⟨_, _, rfl, rfl, ?_⟩
    rw [readValue_with_p o s q, issue_with_p _ s q]
    exact alike_putY hissue _
  | cmp o | cpx o | cpy o =>
    refine ⟨_, _, rfl, rfl, ?_⟩
    rw [readValue_with_p o s q, issue_with_p _ s q]
    exact alike_compareWith hissue _ _
  | bit m =>
    refine ⟨_, _, rfl, rfl, ?_⟩
    rw [memValue_with_p m s q, issue_with_p _ s q]
    exact ⟨_, rfl, hissue.bitFlags _ _⟩
  | asl o | lsr o =>
    refine ⟨_, _, rfl, rfl, ?_⟩
    rw [rmwValue_with_p o s q, issue_with_p _ s q]
    exact alike_writeBack hissue _ _ _
  | rol o | ror o =>
    refine ⟨_, _, rfl, rfl, ?_⟩
    rw [rmwValue_with_p o s q, issue_with_p _ s q, carry_with_p hq]
    exact alike_writeBack hissue _ _ _
  | inc m | dec m =>
    refine ⟨_, _, rfl, rfl, ?_⟩
    rw [memValue_with_p m s q, issue_with_p _ s q]
    exact alike_storeResult hissue _ _
  | sta m | stx m | sty m =>
    refine ⟨_, _, rfl, rfl, ?_⟩
    rw [memAddress_with_p m s q, issue_with_p _ s q]
    exact ⟨q, rfl, hq⟩
  | jmp o =>
    refine ⟨_, _, rfl, rfl, ?_⟩
    rw [jumpTarget_with_p o s q, issue_with_p _ s q]
    exact ⟨q, rfl, hq⟩
  | inx | dex | tax | tsx => exact ⟨_, _, rfl, rfl, alike_putX hissue _⟩
  | iny | dey | tay => exact ⟨_, _, rfl, rfl, alike_putY hissue _⟩
  | txa | tya => exact ⟨_, _, rfl, rfl, alike_putA hissue _⟩
  | pla => exact ⟨_, _, rfl, rfl, alike_putA (s := popState (issue .pla s)) hq _⟩
  | clc | sec | cli | sei | cld | sed | clv | brk => exact ⟨_, _, rfl, rfl, alike_putFlag hissue _ _⟩
  | plp | rti => exact ⟨_, _, rfl, rfl, _, rfl, SameBits.refl _ _⟩
  | _ => exact ⟨_, _, rfl, rfl, q, rfl, hq⟩

end

/-- Settles O12: bits 2 and 3 of P have no writers but the listed ones, and by `exec_alike` no reader but PHP. -/
theorem interruptAndDecimalBitsAreStorageOnly : Obligations.InterruptAndDecimalBitsAreStorageOnly := by
  refine ⟨fun i s t h => ⟨?_, ?_⟩, fun _ => ⟨BitVec.getLsbD_zero, BitVec.getLsbD_zero⟩, fun i s q hi hq => ?_⟩
  · cases i with
    | sei => cases h; exact getLsbD_setFlag .i true _ (by decide)
    | cli => cases h; exact getLsbD_setFlag .i false _ (by decide)
    | plp => exact exec_loads_topByte (.inl rfl) h (by decide) (by decide)
    | rti => exact exec_loads_topByte (.inr rfl) h (by decide) (by decide)
    | _ => exact exec_keepsStatus h 2 (by decide) nofun
  · cases i with
    | sed => cases h; exact getLsbD_setFlag .d true _ (by decide)
    | cld => cases h; exact getLsbD_setFlag .d false _ (by decide)
    | plp => exact exec_loads_topByte (.inl rfl) h (by decide) (by decide)
    | rti => exact exec_loads_topByte (.inr rfl) h (by decide) (by decide)
    | _ => exact exec_keepsStatus h 3 (by decide) nofun
  · obtain ⟨t, _, ht, ht', r, rfl, hr⟩ := exec_alike hq hi
    exact ⟨t, r, ht, ht', hr⟩

end Sys2Proof.Machine
end

section
/-! What a store to memory does (spec/20_memory.md R40, R41, R51, R52): the cell stored to reads the byte stored and no
other changes, for one write, for every instruction, and for the fetch that follows. -/

namespace Sys2Proof.Machine

open Sys2Proof.Claims

/-! ### One write (R41) -/

/-- A read looks at memory alone. -/
theorem keepsMemoryBut_of_mem_eq {s t : State} (h : t.mem = s.mem) (stored : List Word) :
    KeepsMemoryBut stored s t := fun addr _ => congrArg (memRead · addr) h

theorem keepsMemoryBut_writeByte (s : State) (addr : Word) (v : Byte) :
    KeepsMemoryBut [addr] s (writeByte s addr v) := fun other hother => by
  rw [readByte_writeByte, if_neg (List.ne_of_not_mem_cons hother)]

/-- Settles O18: R41 as `readByte_writeByte` says it. -/
theorem readReturnsTheLatestWrite : Obligations.ReadReturnsTheLatestWrite := by
  refine ⟨fun s addr v => ⟨?_, keepsMemoryBut_writeByte s addr v, rfl⟩,
    fun s s' addr h => congrArg (memRead · addr) h⟩
  rw [readByte_writeByte, if_pos rfl]

/-! ### Every instruction's stores -/

theorem stackCell_sp (sp : Byte) : stackCell sp.toNat = stackAddr sp := by
  rw [stackCell_eq_stackAddr, BitVec.ofNat_toNat, BitVec.setWidth_eq]

/-- Where the second of two pushes stores: SP minus 1 with 8-bit wrap (R175, R177). -/
theorem stackCell_sp_add_255 (sp : Byte) : stackCell (sp.toNat + 255) = stackAddr (sp - 1) := by
  rw [stackCell_eq_stackAddr, stackAddr_inj]
  bv_omega

theorem keepsMemoryBut_push (v : Byte) (s : State) : KeepsMemoryBut [stackCell s.sp.toNat] s (push v s) := by
  rw [stackCell_sp]
  exact keepsMemoryBut_writeByte s _ v

theorem keepsMemoryBut_pushWord (w : Word) (s : State) :
    KeepsMemoryBut [stackCell s.sp.toNat, stackCell (s.sp.toNat + 255)] s (pushWord w s) := fun addr haddr => by
  rw [stackCell_sp, stackCell_sp_add_255] at haddr
  obtain ⟨hhigh, hlow⟩ := not_or.mp (mt List.mem_pair.mpr haddr)
  rw [pushWord, readByte_push, push_sp, if_neg hlow, readByte_push, if_neg hhigh]

/-- Settles O16: the stores are one byte at the effective address (R120, R130, R131, R143 to R145), one push (R175) or
two (R200); every other instruction leaves memory as it is. -/
theorem memoryChangesOnlyWhereStored : Obligations.MemoryChangesOnlyWhereStored := by
  intro i s t h
  cases i with
  | sta m | stx m | sty m => cases h; exact keepsMemoryBut_writeByte _ _ _
  | inc m | dec m =>
    cases h
    rw [storedAddresses, ← memAddress_issue]
    exact keepsMemoryBut_writeByte _ _ _
  | asl o | lsr o | rol o | ror o =>
    cases h
    cases o with
    | accumulator => exact keepsMemoryBut_of_mem_eq rfl _
    | mem m =>
      rw [storedAddresses, ← memAddress_issue]
      exact keepsMemoryBut_writeByte _ _ _
  | pha | php => cases h; exact keepsMemoryBut_push _ _
  | jsr w => cases h; exact keepsMemoryBut_pushWord _ _
  | bcc d | bcs d | beq d | bne d | bmi d | bpl d | bvc d | bvs d =>
    cases h; exact keepsMemoryBut_of_mem_eq (branch_mem _ _ _) _
  | _ => cases h; exact keepsMemoryBut_of_mem_eq rfl _

/-! ### The fetch after a store (R51, R52) -/

/-- Settles O20: the three bytes fetched after the store are those of its state, so the one stored over is the byte
stored, and the other two, at other addresses, are as before. -/
theorem storeIsSeenByTheNextFetch : Obligations.StoreIsSeenByTheNextFetch := by
  intro o s t i v hi h
  have hread (addr : Word) : readByte t addr = if addr = memAddress o s then v else readByte s addr := by
    obtain ⟨rfl, rfl⟩ | ⟨rfl, rfl⟩ | ⟨rfl, rfl⟩ := hi <;> cases h <;> exact readByte_writeByte _ _ _ _
  rw [step_eq_exec_decode]
  refine ⟨fun ha => ?_, fun ha => ?_, fun ha => ?_⟩ <;> simp [hread, ha]

/-! ### Canonical memories (R40; log entry 1) -/

theorem cellsFrom_cons {b k : Nat} {v : Byte} {rest : Memory} :
    cellsFrom b ((k, v) :: rest) = true ↔
      b ≤ k ∧ k < Config.memorySize ∧ v ≠ Config.initByte ∧ cellsFrom (k + 1) rest = true := by
  simp only [cellsFrom, Bool.and_eq_true, decide_eq_true_eq, bne_iff_ne, ne_eq, and_assoc]

theorem lookupCell_cons_self (k : Nat) (v : Byte) (rest : Memory) : lookupCell ((k, v) :: rest) k = v := if_pos rfl

theorem lookupCell_cons_of_ne {j k : Nat} (h : j ≠ k) (v : Byte) (rest : Memory) :
    lookupCell ((j, v) :: rest) k = lookupCell rest k := if_neg h

theorem lookupCell_below {b k : Nat} {m : Memory} (hm : cellsFrom b m = true) (hk : k < b) :
    lookupCell m k = Config.initByte := by
  induction m generalizing b with
  | nil => rfl
  | cons c rest ih =>
    obtain ⟨j, v⟩ := c
    obtain ⟨hbj, -, -, hrest⟩ := cellsFrom_cons.mp hm
    rw [lookupCell_cons_of_ne (by omega)]
    exact ih hrest (by omega)

/-- Two memories read alike at every address of the space. -/
def ReadAlike (m m' : Memory) : Prop := ∀ k < Config.memorySize, lookupCell m k = lookupCell m' k

theorem ReadAlike.symm {m m' : Memory} (h : ReadAlike m m') : ReadAlike m' m := fun k hk => (h k hk).symm

/-- A canonical memory does not read as one whose cells all lie above its first: that cell's byte tells them apart. -/
theorem not_readAlike_of_head_below {b j : Nat} {v : Byte} {rest m' : Memory}
    (hm : cellsFrom b ((j, v) :: rest) = true) (hm' : cellsFrom (j + 1) m' = true) :
    ¬ ReadAlike ((j, v) :: rest) m' := fun h => by
  obtain ⟨-, hj, hv, -⟩ := cellsFrom_cons.mp hm
  have hhead := h j hj
  rw [lookupCell_cons_self, lookupCell_below hm' (Nat.lt_succ_self j)] at hhead
  exact hv hhead

theorem eq_of_readAlike {b : Nat} {m m' : Memory} (hm : cellsFrom b m = true) (hm' : cellsFrom b m' = true)
    (h : ReadAlike m m') : m = m' := by
  induction m generalizing b m' with
  | nil =>
    cases m' with
    | nil => rfl
    | cons c' rest' => exact absurd h.symm (not_readAlike_of_head_below hm' rfl)
  | cons c rest ih =>
    obtain ⟨j, v⟩ := c
    obtain ⟨-, hj, hv, hrest⟩ := cellsFrom_cons.mp hm
    cases m' with
    | nil => exact absurd h (not_readAlike_of_head_below hm rfl)
    | cons c' rest' =>
      obtain ⟨j', v'⟩ := c'
      obtain ⟨-, hj', hv', hrest'⟩ := cellsFrom_cons.mp hm'
      obtain hlt | rfl | hlt := lt_trichotomy j j'
      · exact absurd h (not_readAlike_of_head_below hm (cellsFrom_cons.mpr ⟨hlt, hj', hv', hrest'⟩))
      · have hhead := h j hj
        rw [lookupCell_cons_self, lookupCell_cons_self] at hhead
        have htail : ReadAlike rest rest' := fun k hk => by
          by_cases hjk : j = k
          · subst hjk
            rw [lookupCell_below hrest (Nat.lt_succ_self j), lookupCell_below hrest' (Nat.lt_succ_self j)]
          · have hcons := h k hk
            rwa [lookupCell_cons_of_ne hjk, lookupCell_cons_of_ne hjk] at hcons
        rw [hhead, ih hrest hrest' htail]
      · exact absurd h.symm (not_readAlike_of_head_below hm' (cellsFrom_cons.mpr ⟨hlt, hj, hv, hrest⟩))

/-- Settles O19: canonical memories list the same cells one by one (`eq_of_readAlike`). -/
theorem canonicalMemoriesReadingAlikeAreEqual : Obligations.CanonicalMemoriesReadingAlikeAreEqual := by
  intro m m' hm hm' h
  refine eq_of_readAlike hm hm' fun k hk => ?_
  have hread := h (BitVec.ofNat 16 k)
  have haddr : (BitVec.ofNat 16 k).toNat = k := Nat.mod_eq_of_lt hk
  rwa [memRead, memRead, haddr] at hread

end Sys2Proof.Machine
end

section
/-! The decoder and the encoder undo each other (spec/30_encoding.md R60 to R65). The decoder's map and the encoder's
rows are compared twice: every opcode byte is the one that the encoder gives the instruction of its map entry
(`opcode_decode`), and a mnemonic's byte for a mode decodes to that mnemonic in that mode (`decode_opcode`). The
operand bytes are said once, by `Instr.withOperands`. -/

namespace Sys2Proof

open Sys2Proof.Machine Sys2Proof.Laws

/-! ### The same mnemonic and mode with other operand bytes -/

/-- The operand of one byte that bytes after an opcode byte start with (R62); where the list ends, 0, as `decodeBytes`
reads it. -/
def byteOperand (bytes : List Byte) : Byte := bytes.getD 0 0

/-- The operand of two bytes, low byte first, that bytes after an opcode byte start with (R62). -/
def wordOperand (bytes : List Byte) : Word := wordOf (bytes.getD 0 0) (bytes.getD 1 0)

/-- The operand of the same mode that `bytes` start with (R61, R62). -/
def MemOperand.withOperands (bytes : List Byte) : MemOperand → MemOperand
  | .zeroPage _ => .zeroPage (byteOperand bytes)
  | .zeroPageX _ => .zeroPageX (byteOperand bytes)
  | .zeroPageY _ => .zeroPageY (byteOperand bytes)
  | .absolute _ => .absolute (wordOperand bytes)
  | .absoluteX _ => .absoluteX (wordOperand bytes)
  | .absoluteY _ => .absoluteY (wordOperand bytes)
  | .indirectX _ => .indirectX (byteOperand bytes)
  | .indirectY _ => .indirectY (byteOperand bytes)

@[inherit_doc MemOperand.withOperands]
def ReadOperand.withOperands (bytes : List Byte) : ReadOperand → ReadOperand
  | .immediate _ => .immediate (byteOperand bytes)
  | .mem m => .mem (m.withOperands bytes)

@[inherit_doc MemOperand.withOperands]
def RmwOperand.withOperands (bytes : List Byte) : RmwOperand → RmwOperand
  | .accumulator => .accumulator
  | .mem m => .mem (m.withOperands bytes)

@[inherit_doc MemOperand.withOperands]
def JumpOperand.withOperands (bytes : List Byte) : JumpOperand → JumpOperand
  | .absolute _ => .absolute (wordOperand bytes)
  | .indirect _ => .indirect (wordOperand bytes)

@[inherit_doc MemOperand.withOperands]
def Operand.withOperands (bytes : List Byte) : Operand → Operand
  | .implicit => .implicit
  | .accumulator => .accumulator
  | .immediate _ => .immediate (byteOperand bytes)
  | .relative _ => .relative (byteOperand bytes)
  | .mem m => .mem (m.withOperands bytes)
  | .indirect _ => .indirect (wordOperand bytes)

/-- The instruction of the same mnemonic and mode that is read when `bytes` follow its opcode byte. -/
def Instr.withOperands (bytes : List Byte) : Instr → Instr
  | .adc o => .adc (o.withOperands bytes)
  | .sbc o => .sbc (o.withOperands bytes)
  | .and o => .and (o.withOperands bytes)
  | .ora o => .ora (o.withOperands bytes)
  | .eor o => .eor (o.withOperands bytes)
  | .bit m => .bit (m.withOperands bytes)
  | .cmp o => .cmp (o.withOperands bytes)
  | .cpx o => .cpx (o.withOperands bytes)
  | .cpy o => .cpy (o.withOperands bytes)
  | .asl o => .asl (o.withOperands bytes)
  | .lsr o => .lsr (o.withOperands bytes)
  | .rol o => .rol (o.withOperands bytes)
  | .ror o => .ror (o.withOperands bytes)
  | .inc m => .inc (m.withOperands bytes)
  | .dec m => .dec (m.withOperands bytes)
  | .lda o => .lda (o.withOperands bytes)
  | .ldx o => .ldx (o.withOperands bytes)
  | .ldy o => .ldy (o.withOperands bytes)
  | .sta m => .sta (m.withOperands bytes)
  | .stx m => .stx (m.withOperands bytes)
  | .sty m => .sty (m.withOperands bytes)
  | .bcc _ => .bcc (byteOperand bytes)
  | .bcs _ => .bcs (byteOperand bytes)
  | .beq _ => .beq (byteOperand bytes)
  | .bne _ => .bne (byteOperand bytes)
  | .bmi _ => .bmi (byteOperand bytes)
  | .bpl _ => .bpl (byteOperand bytes)
  | .bvc _ => .bvc (byteOperand bytes)
  | .bvs _ => .bvs (byteOperand bytes)
  | .jmp o => .jmp (o.withOperands bytes)
  | .jsr _ => .jsr (wordOperand bytes)
  | i => i

@[simp] theorem op_withOperands (i : Instr) (bytes : List Byte) : (i.withOperands bytes).op = i.op := by
  cases i <;> rfl

@[simp] theorem mnemonic_withOperands (i : Instr) (bytes : List Byte) : (i.withOperands bytes).mnemonic = i.mnemonic :=
  congrArg Mnemonic.name (op_withOperands i bytes)

@[simp] theorem opcodeRow_withOperands (i : Instr) (bytes : List Byte) :
    opcodeRow (i.withOperands bytes) = opcodeRow i := by
  cases i <;> rfl

theorem operand_withOperands (i : Instr) (bytes : List Byte) :
    (i.withOperands bytes).operand = i.operand.withOperands bytes := by
  cases i with
  | adc o | sbc o | and o | ora o | eor o | cmp o | cpx o | cpy o | lda o | ldx o | ldy o => cases o <;> rfl
  | asl o | lsr o | rol o | ror o => cases o <;> rfl
  | jmp o => cases o <;> rfl
  | _ => rfl

@[simp] theorem mode_withOperands (i : Instr) (bytes : List Byte) : (i.withOperands bytes).mode = i.mode := by
  rw [Instr.mode, operand_withOperands, Instr.mode]
  cases i.operand with
  | mem m => cases m <;> rfl
  | _ => rfl

theorem lowByte_wordOf (lo hi : Byte) : lowByte (wordOf lo hi) = lo := by
  apply BitVec.eq_of_toNat_eq
  rw [lowByte, BitVec.extractLsb'_toNat, wordOf_toNat, Nat.shiftRight_zero]
  omega

theorem highByte_wordOf (lo hi : Byte) : highByte (wordOf lo hi) = hi := by
  apply BitVec.eq_of_toNat_eq
  rw [highByte, BitVec.extractLsb'_toNat, wordOf_toNat, Nat.shiftRight_eq_div_pow]
  omega

/-- The two bytes that `decodeBytes` hands to the decoder are the first two of the list, as far as an instruction
looks at them. -/
theorem take_getD_pair {n : Nat} (hn : n ≤ 2) {bytes : List Byte} (h : n ≤ bytes.length) :
    [bytes.getD 0 0, bytes.getD 1 0].take n = bytes.take n := by
  match n, bytes with
  | 0, _ => rfl
  | 1, _ :: _ => rfl
  | 2, _ :: _ :: _ => rfl

theorem operandBytes_le_two (m : Mode) : operandBytes m ≤ 2 := by cases m <;> decide

/-- The operand bytes that the encoder lays down are those that were read (R62). -/
theorem operandList_withOperands (o : Operand) {bytes : List Byte} (h : operandBytes o.mode ≤ bytes.length) :
    operandList (o.withOperands bytes) = bytes.take (operandBytes o.mode) := by
  rw [← take_getD_pair (operandBytes_le_two _) h]
  have hword : [lowByte (wordOperand bytes), highByte (wordOperand bytes)] = [bytes.getD 0 0, bytes.getD 1 0] := by
    rw [wordOperand, lowByte_wordOf, highByte_wordOf]
  cases o with
  | mem m =>
    cases m with
    | absolute a | absoluteX a | absoluteY a => exact hword
    | _ => rfl
  | indirect p => exact hword
  | _ => rfl

/-- Its own operand bytes put in give the operand or instruction back, whatever bytes follow them. -/
theorem MemOperand.withOperands_self (m : MemOperand) (rest : List Byte) :
    m.withOperands (memOperandBytes m ++ rest) = m := by
  cases m with
  | absolute a | absoluteX a | absoluteY a => exact congrArg _ (wordOf_lowByte_highByte a)
  | _ => rfl

@[inherit_doc MemOperand.withOperands_self]
theorem ReadOperand.withOperands_self (o : ReadOperand) (rest : List Byte) :
    o.withOperands (operandList o.operand ++ rest) = o := by
  cases o with
  | immediate v => rfl
  | mem m => exact congrArg _ (m.withOperands_self rest)

@[inherit_doc MemOperand.withOperands_self]
theorem RmwOperand.withOperands_self (o : RmwOperand) (rest : List Byte) :
    o.withOperands (operandList o.operand ++ rest) = o := by
  cases o with
  | accumulator => rfl
  | mem m => exact congrArg _ (m.withOperands_self rest)

@[inherit_doc MemOperand.withOperands_self]
theorem JumpOperand.withOperands_self (o : JumpOperand) (rest : List Byte) :
    o.withOperands (operandList o.operand ++ rest) = o := by
  cases o with
  | absolute w | indirect w => exact congrArg _ (wordOf_lowByte_highByte w)

@[inherit_doc MemOperand.withOperands_self]
theorem Instr.withOperands_self (i : Instr) (rest : List Byte) :
    i.withOperands (operandList i.operand ++ rest) = i := by
  cases i with
  | adc o | sbc o | and o | ora o | eor o | cmp o | cpx o | cpy o | lda o | ldx o | ldy o =>
    exact congrArg _ (o.withOperands_self rest)
  | asl o | lsr o | rol o | ror o => exact congrArg _ (o.withOperands_self rest)
  | bit m | inc m | dec m | sta m | stx m | sty m => exact congrArg _ (m.withOperands_self rest)
  | jmp o => exact congrArg _ (o.withOperands_self rest)
  | jsr w => exact congrArg _ (wordOf_lowByte_highByte w)
  | _ => rfl

/-! ### The two tables agree (R64, R65) -/

/-- The encoder's opcode byte for an instruction's mnemonic and mode; none where the mnemonic has no such mode. -/
def Instr.opcode (i : Instr) : Option Byte := byteFor (opcodeRow i) i.mode

@[simp] theorem opcode_withOperands (i : Instr) (bytes : List Byte) : (i.withOperands bytes).opcode = i.opcode := by
  rw [Instr.opcode, opcodeRow_withOperands, mode_withOperands, Instr.opcode]

theorem opcode_nopUnassigned (op : Byte) :
    (Instr.nopUnassigned op).opcode = if unassignedBytes.contains op then some op else none := by
  rw [Instr.opcode, opcodeRow]
  split <;> rfl

theorem opcode_nopUnassigned_eq_some {other op : Byte} :
    (Instr.nopUnassigned other).opcode = some op ↔ other ∈ unassignedBytes ∧ other = op := by
  rw [opcode_nopUnassigned, Option.ite_none_right_eq_some, List.contains_iff_mem, Option.some_inj]

theorem encode_eq_some {i : Instr} {bs : List Byte} :
    encode i = some bs ↔ ∃ op, i.opcode = some op ∧ op :: operandList i.operand = bs :=
  Option.map_eq_some_iff

theorem byteFor_isSome (row : List (Mode × Byte)) (m : Mode) :
    (byteFor row m).isSome = (row.map (·.1)).contains m := by
  rw [byteFor, Option.isSome_map, List.isSome_find?, ← List.any_beq', List.any_map]
  rfl

/-- The instructions the encoder has a byte for are the well-formed ones. -/
theorem opcode_isSome (i : Instr) : i.opcode.isSome = i.wellFormed := by
  cases i with
  | nopUnassigned op =>
    show _ = unassignedBytes.contains op
    rw [opcode_nopUnassigned]
    cases unassignedBytes.contains op <;> rfl
  | _ => exact (byteFor_isSome _ _).trans (Bool.and_true _).symm

/-- The bytes of the encoder's rows decode to the mnemonic and mode they stand for, with the operand bytes read. -/
theorem decode_opcode {i : Instr} {op : Byte} (h : i.opcode = some op) (bytes : List Byte) :
    decode op (bytes.getD 0 0) (bytes.getD 1 0) = i.withOperands bytes := by
  cases i with
  | adc o | sbc o | and o | ora o | eor o | cmp o | cpx o | cpy o | lda o | ldx o | ldy o =>
    cases o with
    | immediate v => cases h; rfl
    | mem m => cases m <;> cases h <;> rfl
  | asl o | lsr o | rol o | ror o =>
    cases o with
    | accumulator => cases h; rfl
    | mem m => cases m <;> cases h <;> rfl
  | bit m | inc m | dec m | sta m | stx m | sty m => cases m <;> cases h <;> rfl
  | jmp o => cases o <;> cases h <;> rfl
  | nopUnassigned other =>
    obtain ⟨hmem, rfl⟩ := opcode_nopUnassigned_eq_some.mp h
    have htable : unassignedBytes.map (decode · (bytes.getD 0 0) (bytes.getD 1 0)) =
        unassignedBytes.map .nopUnassigned := rfl
    exact List.map_inj_left.mp htable other hmem
  | _ => cases h; rfl

/-- Each of the 256 bytes is the encoder's byte for what it decodes to. -/
theorem opcode_decode_zero : ∀ op : Byte, (decode op 0 0).opcode = some op := by decide

/-- The bytes after the opcode byte are operand bytes and nothing else (R60, R63). -/
theorem decode_eq_withOperands (op : Byte) (bytes : List Byte) :
    decode op (bytes.getD 0 0) (bytes.getD 1 0) = (decode op 0 0).withOperands bytes :=
  decode_opcode (opcode_decode_zero op) bytes

theorem decode_eq_withOperands_pair (op lo hi : Byte) : decode op lo hi = (decode op 0 0).withOperands [lo, hi] :=
  decode_eq_withOperands op [lo, hi]

theorem opcode_decode (op lo hi : Byte) : (decode op lo hi).opcode = some op := by
  rw [decode_eq_withOperands_pair, opcode_withOperands, opcode_decode_zero]

theorem operandList_decode {op : Byte} {bytes : List Byte} {i : Instr}
    (hi : decode op (bytes.getD 0 0) (bytes.getD 1 0) = i) (h : operandBytes i.mode ≤ bytes.length) :
    operandList i.operand = bytes.take (operandBytes i.mode) := by
  rw [decode_eq_withOperands] at hi
  subst hi
  rw [mode_withOperands] at h ⊢
  rw [operand_withOperands, operandList_withOperands _ h]
  rfl

/-! ### Lists of bytes -/

theorem decodeBytes_cons (op : Byte) (bs : List Byte) :
    decodeBytes (op :: bs) =
      if bs.length < operandBytes (decode op (bs.getD 0 0) (bs.getD 1 0)).mode then .error (.truncated op)
      else .ok (decode op (bs.getD 0 0) (bs.getD 1 0),
        bs.drop (operandBytes (decode op (bs.getD 0 0) (bs.getD 1 0)).mode)) := rfl

/-- Everything `decodeBytes` accepts. -/
theorem decodeBytes_eq_ok {bs rest : List Byte} {i : Instr} :
    decodeBytes bs = .ok (i, rest) ↔
      ∃ op tail, bs = op :: tail ∧ decode op (tail.getD 0 0) (tail.getD 1 0) = i ∧
        operandBytes i.mode ≤ tail.length ∧ tail.drop (operandBytes i.mode) = rest := by
  cases bs with
  | nil => exact ⟨nofun, nofun⟩
  | cons op tail =>
    rw [decodeBytes_cons]
    constructor
    · intro h
      split at h
      · cases h
      · cases h
        exact ⟨op, tail, rfl, rfl, Nat.le_of_not_lt ‹_›, rfl⟩
    · rintro ⟨_, _, ⟨⟩, rfl, hlen, rfl⟩
      rw [if_neg (Nat.not_lt.mpr hlen)]

/-- Settles O2: the encoder has a byte for a well-formed instruction, which decodes to its mnemonic and mode
(`decode_opcode`), and its own operand bytes follow (`Instr.withOperands_self`). -/
theorem decodeOfEncodeGivesTheInstruction : Obligations.DecodeOfEncodeGivesTheInstruction := by
  intro i hi
  rw [← opcode_isSome, Option.isSome_iff_exists] at hi
  obtain ⟨op, hop⟩ := hi
  refine ⟨_, encode_eq_some.mpr ⟨op, hop, rfl⟩, fun rest =>
    decodeBytes_eq_ok.mpr ⟨op, operandList i.operand ++ rest, rfl, ?_, ?_, ?_⟩⟩
  · exact (decode_opcode hop _).trans (i.withOperands_self rest)
  · rw [List.length_append, operandList_length]
    exact Nat.le_add_right _ _
  · exact List.drop_left' (operandList_length _)

/-- Settles O3: the byte read is the encoder's byte for what is decoded (`opcode_decode`), which is therefore well
formed, and its operand bytes are those read (`operandList_decode`). -/
theorem encodeOfDecodeGivesTheBytes : Obligations.EncodeOfDecodeGivesTheBytes := by
  intro bs rest i h
  obtain ⟨op, tail, rfl, hi, hlen, rfl⟩ := decodeBytes_eq_ok.mp h
  have hop : i.opcode = some op := hi ▸ opcode_decode op _ _
  refine ⟨?_, _, encode_eq_some.mpr ⟨op, hop, rfl⟩, ?_⟩
  · rw [← opcode_isSome, hop, Option.isSome_some]
  · rw [operandList_decode hi hlen, List.cons_append, List.take_append_drop]

/-! ### The opcode byte alone (R63, R65) -/

/-- The byte of a decoded unassigned NOP is the byte decoded, and is unassigned. -/
theorem decode_eq_nopUnassigned {op lo hi other : Byte} :
    decode op lo hi = .nopUnassigned other ↔ other ∈ unassignedBytes ∧ other = op := by
  rw [← opcode_nopUnassigned_eq_some]
  constructor
  · intro h
    rw [← h, opcode_decode]
  · exact fun h => decode_opcode h [lo, hi]

/-- Settles O4: the bytes after the opcode byte change operands only (`decode_eq_withOperands`), and a byte decodes to
an unassigned NOP just when it is unassigned (`decode_eq_nopUnassigned`). -/
theorem opcodeByteAloneSelectsMnemonicAndMode : Obligations.OpcodeByteAloneSelectsMnemonicAndMode := by
  refine ⟨fun op lo hi lo' hi' => ?_, rfl, by decide, fun op lo hi hmem => ?_, fun op lo hi other hmem h => ?_,
    fun op lo hi => ?_⟩
  · rw [decode_eq_withOperands_pair op lo hi, decode_eq_withOperands_pair op lo' hi']
    simp only [mnemonic_withOperands, mode_withOperands, and_self]
  · rw [decode_eq_nopUnassigned.mpr ⟨hmem, rfl⟩]
    exact ⟨rfl, rfl, rfl⟩
  · obtain ⟨hother, rfl⟩ := decode_eq_nopUnassigned.mp h
    exact hmem hother
  · exact ⟨_, decodeBytes_eq_ok.mpr ⟨op, [lo, hi], rfl, rfl, operandBytes_le_two _, rfl⟩⟩

/-- Settles O1: the decoder evaluated on each word. -/
theorem decodesWordsOfTheTable : Obligations.DecodesWordsOfTheTable :=
  ⟨rfl, rfl, rfl, rfl, rfl, rfl, rfl, rfl⟩

end Sys2Proof
end

section
/-! What a step runs and how far it moves PC (spec/30_encoding.md R67 to R69). -/

namespace Sys2Proof.Machine

open Sys2Proof.Claims Sys2Proof.Laws

/-- The three bytes that a fetch reads (R67; log entry 6). -/
def fetchedBytes (s : State) : List Byte := [readByte s s.pc, readByte s (s.pc + 1), readByte s (s.pc + 2)]

/-- A step runs what its three bytes decode to. -/
theorem step_of_decodeBytes {s : State} {i : Instr} {rest : List Byte}
    (h : decodeBytes (fetchedBytes s) = .ok (i, rest)) : step s = exec i s := by
  obtain ⟨op, tail, hbytes, rfl, -, -⟩ := decodeBytes_eq_ok.mp h
  cases hbytes
  exact step_eq_exec_decode s

/-- An encoding that lies at PC is the front of what is fetched: an instruction is at most three bytes long (R60). -/
theorem encoding_prefix_fetchedBytes {s : State} {i : Instr} {bs : List Byte} (hbs : encode i = some bs)
    (h : ∀ (k : Nat) (hk : k < bs.length), readByte s (s.pc + BitVec.ofNat 16 k) = bs[k]) :
    bs <+: fetchedBytes s := by
  have hlen : bs.length ≤ 3 := encode_length hbs ▸ (instrLength_bounds i).2
  refine List.prefix_iff_getElem.mpr ⟨hlen, fun k hk => ?_⟩
  rw [← h k hk]
  match k, hk.trans_le hlen with
  | 0, _ => exact congrArg (readByte s) (BitVec.add_zero _)
  | 1, _ | 2, _ => rfl

/-- Settles O5: a fetch decodes the three bytes at PC, and an encoding there is their front, so it decodes to its
instruction whatever the bytes after it are (O2). -/
theorem stepRunsTheDecodedInstruction : Obligations.StepRunsTheDecodedInstruction := by
  refine ⟨fun s i rest h => step_of_decodeBytes h, fun s i bs hi hbs h => ?_⟩
  obtain ⟨bs', hbs', hdecode⟩ := decodeOfEncodeGivesTheInstruction i hi
  obtain rfl : bs = bs' := Option.some_injective _ (hbs.symm.trans hbs')
  obtain ⟨rest, hrest⟩ := encoding_prefix_fetchedBytes hbs h
  exact step_of_decodeBytes (hrest ▸ hdecode rest)

/-- An instruction that does not set PC itself leaves it where fetch and resolver put it (R68). -/
theorem exec_pc {i : Instr} {s t : State} (h : exec i s = .next t) (hi : setsPc i s = false) :
    t.pc = s.pc + BitVec.ofNat 16 (instrLength i) := by
  cases i with
  | jmp o | jsr w => cases hi
  | rts | rti => cases hi
  | bcc d | bcs d | beq d | bne d | bmi d | bpl d | bvc d | bvs d =>
    rw [← execWith_defaultCosts, execWith_of_relative rfl, hi] at h
    cases h; rfl
  | asl o | lsr o | rol o | ror o => cases h; exact writeBack_pc _ _ _ _
  | _ => cases h; rfl

/-- Settles O7: every instruction completes (`execWith_completes`), `exec_pc` says where, and an encoding is
`instrLength` bytes long. -/
theorem pcAdvancesPastTheEncoding : Obligations.PcAdvancesPastTheEncoding := by
  intro i bs s hbs hi
  obtain ⟨t, ht⟩ := execWith_completes defaultCosts i s
  rw [execWith_defaultCosts] at ht
  refine ⟨t, ht, ?_⟩
  rw [exec_pc ht hi, encode_length hbs, BitVec.toNat_add, BitVec.toNat_ofNat, Nat.add_mod_mod]

end Sys2Proof.Machine
end

section
/-! What the resolver answers in each addressing mode, as numbers (spec/40_addressing.md R80 to R94). -/

namespace Sys2Proof.Machine

open Sys2Proof.Claims

/-! ### The sums and the words of an effective address -/

theorem zext16_eq_ofNat (b : Byte) : zext16 b = BitVec.ofNat 16 b.toNat := (BitVec.ofNat_toNat 16 b).symm

theorem zext16_toNat (b : Byte) : (zext16 b).toNat = b.toNat := BitVec.toNat_setWidth_of_le (by decide)

/-- A zero-page sum wraps inside the zero page (R85). -/
theorem zext16_add_toNat (zp b : Byte) : (zext16 (zp + b)).toNat = (zp.toNat + b.toNat) % 256 := by
  rw [zext16_toNat, BitVec.toNat_add]

/-- An indexed sum wraps at 16 bits (R89, R90). -/
theorem add_zext16_toNat (base : Word) (b : Byte) : (base + zext16 b).toNat = (base.toNat + b.toNat) % 65536 := by
  rw [add_zext16_eq_ofNat, BitVec.toNat_ofNat]

/-- Both bytes of a zero-page pointer lie in the zero page (R47; D7, log entry 10). -/
theorem read16ZP_toNat (s : State) (z : Byte) :
    (read16ZP s z).toNat = (readByte s (BitVec.ofNat 16 z.toNat)).toNat +
      256 * (readByte s (BitVec.ofNat 16 ((z.toNat + 1) % 256))).toNat := by
  have hhigh : (z + 1).toNat = (z.toNat + 1) % 256 := BitVec.toNat_add z 1
  rw [read16ZP, wordOf_toNat, zext16_eq_ofNat, zext16_eq_ofNat, hhigh]

/-- The high byte of a pointer comes from the next address with 16-bit wrap (R47; D6, log entry 9). -/
theorem read16_toNat (s : State) (addr : Word) :
    (read16 s addr).toNat = (readByte s addr).toNat +
      256 * (readByte s (BitVec.ofNat 16 ((addr.toNat + 1) % 65536))).toNat := by
  have hnext : addr + 1 = BitVec.ofNat 16 ((addr.toNat + 1) % 65536) :=
    BitVec.eq_of_toNat_eq (by rw [BitVec.toNat_add, BitVec.toNat_ofNat, Nat.mod_mod]; rfl)
  rw [read16, wordOf_toNat, hnext]

/-- IndirectX indexes the pointer, inside the zero page (R92). -/
theorem memAddress_indirectX_toNat (zp : Byte) (s : State) :
    (memAddress (.indirectX zp) s).toNat =
      (readByte s (BitVec.ofNat 16 ((zp.toNat + s.x.toNat) % 256))).toNat +
      256 * (readByte s (BitVec.ofNat 16 (((zp.toNat + s.x.toNat) % 256 + 1) % 256))).toNat := by
  rw [memAddress, read16ZP_toNat, BitVec.toNat_add]

/-! ### The page-cross penalty (R94) -/

/-- The base and the effective address are the two words compared, here and for AbsoluteY. -/
theorem memPenalty_absoluteX (w : Word) (s : State) :
    memPenalty (.absoluteX w) s = crossing w (memAddress (.absoluteX w) s) := pageCross_toNat_eq_crossing _ _

theorem memPenalty_absoluteY (w : Word) (s : State) :
    memPenalty (.absoluteY w) s = crossing w (memAddress (.absoluteY w) s) := pageCross_toNat_eq_crossing _ _

/-- IndirectY's base is the word that its pointer holds (R93). -/
theorem memPenalty_indirectY (zp : Byte) (s : State) :
    memPenalty (.indirectY zp) s = crossing (read16ZP s zp) (memAddress (.indirectY zp) s) :=
  pageCross_toNat_eq_crossing _ _

/-! ### The modes -/

/-- Settles O22: each effective address is one of the model's two sums, whose wrap `zext16_add_toNat` and
`add_zext16_toNat` say; the value, bytes and cost are the entries of the model's own tables. -/
theorem resolverZeroPageAndAbsoluteModes : Obligations.ResolverZeroPageAndAbsoluteModes := by
  refine ⟨fun m s => ⟨rfl, rfl, rfl, rfl⟩, fun s zp w =>
    ⟨?zeroPage, ?zeroPageX, ?zeroPageY, ?absolute, ?absoluteX, ?absoluteY⟩⟩
  case zeroPage => exact ⟨zext16_toNat zp, rfl, rfl⟩
  case zeroPageX => exact ⟨zext16_add_toNat zp s.x, rfl, rfl, rfl⟩
  case zeroPageY => exact ⟨zext16_add_toNat zp s.y, rfl, rfl, rfl⟩
  case absolute => exact ⟨rfl, rfl, rfl⟩
  case absoluteX => exact ⟨add_zext16_toNat w s.x, rfl, rfl, memPenalty_absoluteX w s⟩
  case absoluteY => exact ⟨add_zext16_toNat w s.y, rfl, rfl, memPenalty_absoluteY w s⟩

/-- Settles O23: IndirectX indexes before it reads its pointer, IndirectY after; the pointer's word is
`read16ZP_toNat` for both, and `read16_toNat` for Indirect. -/
theorem resolverPointerModes : Obligations.ResolverPointerModes := by
  intro s zp ptr
  refine ⟨?indirectX, ?indirectY, ?indirect⟩
  case indirectX => exact ⟨memAddress_indirectX_toNat zp s, rfl, rfl, rfl⟩
  case indirectY =>
    have haddr : (memAddress (.indirectY zp) s).toNat = ((read16ZP s zp).toNat + s.y.toNat) % 65536 :=
      add_zext16_toNat _ s.y
    rw [memPenalty_indirectY, crossing, haddr, read16ZP_toNat]
    exact ⟨rfl, rfl, rfl, rfl⟩
  case indirect => exact ⟨rfl, rfl, rfl, read16_toNat s ptr⟩

/-- Settles O21: these modes compute no address, so each clause is an entry of the model's tables. -/
theorem resolverModesWithoutMemory : Obligations.ResolverModesWithoutMemory := by
  intro s v
  refine ⟨?implicit, ?accumulator, ?immediate, ?relative⟩
  case implicit => exact ⟨rfl, rfl, rfl⟩
  case accumulator => exact ⟨rfl, rfl, rfl, rfl⟩
  case immediate => exact ⟨rfl, rfl, rfl, rfl⟩
  case relative => exact ⟨rfl, rfl, rfl⟩

end Sys2Proof.Machine
end

section
/-! Arithmetic, logic, bit test and compare as numbers (spec/41_arith_logic.md): what the 9-bit ALU yields, and that a
subtraction is an addition of the complement. -/

namespace Sys2Proof.Machine

open Sys2Proof.Claims

/-! ### What an operation on an issued state completes with -/

/-- An operation that leaves PC and `cycles` as they were issued retires its instruction (R69, R250). -/
theorem retires_of_issue {i : Instr} {s t : State} (hpc : t.pc = (issue i s).pc)
    (hcycles : t.cycles = (issue i s).cycles) : Retires i s t := by
  refine ⟨?_, hcycles⟩
  rw [hpc, issue_pc, BitVec.toNat_add, BitVec.toNat_ofNat, Nat.add_mod_mod]

theorem keepsMemory_of_mem_eq {s t : State} (h : t.mem = s.mem) : KeepsMemory s t :=
  fun addr => congrArg (memRead · addr) h

theorem beq_zero_eq_decide_toNat (v : Byte) : (v == 0) = decide (v.toNat = 0) :=
  Bool.eq_iff_iff.mpr (by rw [beq_iff_eq, decide_eq_true_eq, ← BitVec.toNat_inj]; rfl)

/-- Bit 7 is the sign bit of a byte (R23). -/
theorem getLsbD_seven_eq_decide (v : Byte) : v.getLsbD 7 = decide (128 ≤ v.toNat) := BitVec.msb_eq_decide v

/-- `SetZN`'s two bits are the claims' Z and N (R23). -/
theorem showsZN_of_bits {v : Byte} {t : State} (hz : t.p.getLsbD 1 = (v == 0)) (hn : t.p.getLsbD 7 = v.getLsbD 7) :
    ShowsZN v t :=
  ⟨hz.trans (beq_zero_eq_decide_toNat v), hn.trans (getLsbD_seven_eq_decide v)⟩

theorem showsZN_of_arithFlags {c v : Bool} {r p : Byte} {t : State} (h : t.p = arithFlags c v r p) : ShowsZN r t :=
  showsZN_of_bits ((congrArg (·.getLsbD 1) h).trans (getLsbD_arithFlags c v r p (by decide)))
    ((congrArg (·.getLsbD 7) h).trans (getLsbD_arithFlags c v r p (by decide)))

/-- `A <- v; SetZN(A)` after fetch and resolver writes A, Z and N, and nothing else. -/
theorem writesA_putA (v : Byte) (i : Instr) (s : State) : WritesA v i s (putA v (issue i s)) :=
  ⟨rfl, showsZN_of_bits (getLsbD_setZN v _ (by decide)) (getLsbD_setZN v _ (by decide)), sameBits_setZN v s.p, rfl,
    rfl, rfl, keepsMemory_of_mem_eq rfl, retires_of_issue rfl rfl⟩

/-- Settles O27: each is `putA` of a bitwise combination. -/
theorem logicInstructionsCombineBits : Obligations.LogicInstructionsCombineBits := by
  intro o s
  refine ⟨⟨_, rfl, fun k => ?_, writesA_putA _ _ s⟩, ⟨_, rfl, fun k => ?_, writesA_putA _ _ s⟩,
    ⟨_, rfl, fun k => ?_, writesA_putA _ _ s⟩⟩
  · exact BitVec.getLsbD_and
  · exact BitVec.getLsbD_or
  · exact BitVec.getLsbD_xor

/-! ### BIT (R106) -/

theorem and_eq_zero_iff_no_common_bit (a m : Byte) :
    a &&& m = 0 ↔ ∀ k, k < 8 → ¬(a.getLsbD k = true ∧ m.getLsbD k = true) := by
  simp only [← Bool.and_eq_true, ← BitVec.getLsbD_and, Bool.not_eq_true]
  exact ⟨fun h k _ => h ▸ BitVec.getLsbD_zero,
    fun h => BitVec.eq_of_getLsbD_eq fun k hk => (h k hk).trans BitVec.getLsbD_zero.symm⟩

/-- Settles O28: Z is that of `A & M` (`and_eq_zero_iff_no_common_bit`), V and N are copied from the operand. -/
theorem bitTestsOperandBits : Obligations.BitTestsOperandBits := by
  intro o s
  have hbits {k : Nat} (hk : k < 8) := getLsbD_bitFlags s.a (memValue o s) s.p hk
  refine ⟨_, rfl, ?zero, hbits (k := 6) (by decide), hbits (k := 7) (by decide), sameBits_bitFlags _ _ _,
    ⟨rfl, rfl, rfl, rfl⟩, keepsMemory_of_mem_eq rfl, retires_of_issue rfl rfl⟩
  case zero =>
    rw [← and_eq_zero_iff_no_common_bit]
    exact (Bool.eq_iff_iff.mp (hbits (k := 1) (by decide))).trans beq_iff_eq

/-! ### The 9-bit sum and difference (R100 to R102) -/

theorem carryIn_toNat (c : Bool) : (carryIn c).toNat = c.toNat := by cases c <;> rfl

theorem low8_toNat (r : BitVec 9) : (low8 r).toNat = r.toNat % 256 := BitVec.toNat_setWidth 8 r

/-- The sum of two bytes and a carry fits in nine bits. -/
theorem adcSum_toNat (a m : Byte) (c : Bool) : (adcSum a m c).toNat = a.toNat + m.toNat + c.toNat := by
  have hc := c.toNat_le
  simp only [adcSum, BitVec.toNat_add, BitVec.toNat_setWidth, carryIn_toNat]
  omega

/-- The difference with borrow, mod 512. -/
theorem sbcDiff_toNat (a m : Byte) (c : Bool) :
    (sbcDiff a m c).toNat = (a.toNat + 512 - m.toNat - (!c).toNat) % 512 := by
  have hc := (!c).toNat_le
  simp only [sbcDiff, BitVec.toNat_sub, BitVec.toNat_setWidth, carryIn_toNat]
  omega

theorem low8_adcSum_toNat (a m : Byte) (c : Bool) :
    (low8 (adcSum a m c)).toNat = (a.toNat + m.toNat + c.toNat) % 256 := by
  rw [low8_toNat, adcSum_toNat]

theorem low8_sbcDiff_toNat (a m : Byte) (c : Bool) :
    (low8 (sbcDiff a m c)).toNat = (a.toNat + 512 - m.toNat - (!c).toNat) % 256 := by
  rw [low8_toNat, sbcDiff_toNat, Nat.mod_mod_of_dvd _ (by decide)]

theorem adcCarry_adcSum (a m : Byte) (c : Bool) :
    adcCarry (adcSum a m c) = decide (255 < a.toNat + m.toNat + c.toNat) := by
  rw [adcCarry, decide_eq_decide, BitVec.lt_def, adcSum_toNat]
  rfl

theorem noBorrow_sbcDiff (a m : Byte) (c : Bool) :
    noBorrow (sbcDiff a m c) = decide (m.toNat + (!c).toNat ≤ a.toNat) := by
  have hc := (!c).toNat_le
  have hbound : (0x100#9).toNat = 256 := rfl
  rw [noBorrow, decide_eq_decide, BitVec.lt_def, sbcDiff_toNat, hbound]
  omega

/-! ### Subtracting is adding the complement (R102) -/

/-- The borrow is the complement of the carry. -/
theorem toNat_add_toNat_not (c : Bool) : c.toNat + (!c).toNat = 1 := by cases c <;> rfl

theorem low8_sbcDiff (a m : Byte) (c : Bool) : low8 (sbcDiff a m c) = low8 (adcSum a (~~~m) c) := by
  apply BitVec.eq_of_toNat_eq
  have hc := toNat_add_toNat_not c
  rw [low8_sbcDiff_toNat, low8_adcSum_toNat, BitVec.toNat_not]
  omega

theorem noBorrow_sbcDiff_eq_adcCarry (a m : Byte) (c : Bool) :
    noBorrow (sbcDiff a m c) = adcCarry (adcSum a (~~~m) c) := by
  have hc := toNat_add_toNat_not c
  rw [noBorrow_sbcDiff, adcCarry_adcSum, BitVec.toNat_not, decide_eq_decide]
  omega

theorem sbcOverflow_eq_adcOverflow_not (a m r : Byte) : sbcOverflow a m r = adcOverflow a (~~~m) r := by
  rw [sbcOverflow, adcOverflow, ← BitVec.not_xor_right, BitVec.not_not]

theorem subWithBorrow_eq_addWithCarry_not (m : Byte) (s : State) : subWithBorrow m s = addWithCarry (~~~m) s := by
  simp only [subWithBorrow, addWithCarry, low8_sbcDiff, noBorrow_sbcDiff_eq_adcCarry, sbcOverflow_eq_adcOverflow_not]

/-- Settles O26: the operations are the same (`subWithBorrow_eq_addWithCarry_not`), and so is what SBC and ADC in
Immediate mode issue. -/
theorem sbcIsAdcOfTheComplement : Obligations.SbcIsAdcOfTheComplement := by
  refine ⟨fun m s => ?_, fun o o' s h => ⟨_, _, rfl, rfl, ?_⟩⟩
  · exact congrArg _ (subWithBorrow_eq_addWithCarry_not m _)
  · rw [subWithBorrow_eq_addWithCarry_not, h]
    exact ⟨rfl, rfl⟩

/-! ### Signed overflow (R101, R102; D9, log entry 12) -/

theorem not_toInt (m : Byte) : (~~~m).toInt = -m.toInt - 1 := by
  rw [BitVec.toInt_eq_toNat_cond, BitVec.toInt_eq_toNat_cond, BitVec.toNat_not]
  split <;> split <;> omega

/-- The mask `$80` leaves the sign bit. -/
theorem and_signMask_bne_zero (x : Byte) : ((x &&& 0x80#8) != 0) = x.getLsbD 7 := by
  revert x
  decide

/-- V of ADC compares sign bits: the operands' agree, and the result's is another. -/
theorem adcOverflow_eq_true_iff (a m r : Byte) :
    adcOverflow a m r = true ↔ (128 ≤ a.toNat ↔ 128 ≤ m.toNat) ∧ ¬(128 ≤ a.toNat ↔ 128 ≤ r.toNat) := by
  have hsigns : adcOverflow a m r = (a.getLsbD 7 == m.getLsbD 7 && a.getLsbD 7 != r.getLsbD 7) := by
    rw [adcOverflow, and_signMask_bne_zero, BitVec.getLsbD_and, BitVec.getLsbD_not, BitVec.getLsbD_xor,
      BitVec.getLsbD_xor, Bool.xor, bne, Bool.not_not]
    rfl
  simp only [hsigns, getLsbD_seven_eq_decide, Bool.and_eq_true, beq_iff_eq, bne_iff_ne, ne_eq,
    decide_eq_decide]

theorem adcOverflow_adcSum (a m : Byte) (c : Bool) :
    adcOverflow a m (low8 (adcSum a m c)) =
      decide (a.toInt + m.toInt + c.toNat < -128 ∨ 127 < a.toInt + m.toInt + c.toNat) := by
  have hc := c.toNat_le
  rw [Bool.eq_iff_iff, adcOverflow_eq_true_iff, decide_eq_true_eq, low8_adcSum_toNat, BitVec.toInt_eq_toNat_cond,
    BitVec.toInt_eq_toNat_cond]
  split <;> split <;> omega

theorem sbcOverflow_sbcDiff (a m : Byte) (c : Bool) :
    sbcOverflow a m (low8 (sbcDiff a m c)) =
      decide (a.toInt - m.toInt - (!c).toNat < -128 ∨ 127 < a.toInt - m.toInt - (!c).toNat) := by
  have hc := toNat_add_toNat_not c
  rw [low8_sbcDiff, sbcOverflow_eq_adcOverflow_not, adcOverflow_adcSum, not_toInt, decide_eq_decide]
  omega

/-- Settles O24: A, C and V are the 9-bit sum's low byte, ninth bit and overflow, read as numbers; the rest is what
`addWithCarry` leaves of the issued state. -/
theorem adcAddsWithCarryAndOverflow : Obligations.AdcAddsWithCarryAndOverflow := by
  intro o s
  refine ⟨_, rfl, ⟨low8_adcSum_toNat _ _ _, ?carry, ?overflow⟩,
    showsZN_of_arithFlags rfl, sameBits_arithFlags _ _ _ _, rfl, rfl, rfl,
    keepsMemory_of_mem_eq rfl, retires_of_issue rfl rfl⟩
  case carry => exact (getLsbD_arithFlags _ _ _ _ (i := 0) (by decide)).trans (adcCarry_adcSum _ _ _)
  case overflow => exact (getLsbD_arithFlags _ _ _ _ (i := 6) (by decide)).trans (adcOverflow_adcSum _ _ _)

/-- Settles O25: as O24, with the 9-bit difference. -/
theorem sbcSubtractsWithBorrowAndOverflow : Obligations.SbcSubtractsWithBorrowAndOverflow := by
  intro o s
  refine ⟨_, rfl, ⟨low8_sbcDiff_toNat _ _ _, ?carry, ?overflow⟩,
    showsZN_of_arithFlags rfl, sameBits_arithFlags _ _ _ _, rfl, rfl, rfl,
    keepsMemory_of_mem_eq rfl, retires_of_issue rfl rfl⟩
  case carry => exact (getLsbD_arithFlags _ _ _ _ (i := 0) (by decide)).trans (noBorrow_sbcDiff _ _ _)
  case overflow => exact (getLsbD_arithFlags _ _ _ _ (i := 6) (by decide)).trans (sbcOverflow_sbcDiff _ _ _)

/-! ### Compare (R107) -/

/-- A compare subtracts with no borrow coming in. -/
theorem cmpDiff_eq_sbcDiff (r m : Byte) : cmpDiff r m = sbcDiff r m true := (BitVec.sub_zero _).symm

theorem low8_cmpDiff_toNat (r m : Byte) : (low8 (cmpDiff r m)).toNat = (r.toNat + 256 - m.toNat) % 256 := by
  rw [cmpDiff_eq_sbcDiff, low8_sbcDiff_toNat, Bool.not_true, Bool.toNat_false]
  omega

theorem noBorrow_cmpDiff (r m : Byte) : noBorrow (cmpDiff r m) = decide (m.toNat ≤ r.toNat) := by
  rw [cmpDiff_eq_sbcDiff, noBorrow_sbcDiff]
  rfl

theorem low8_cmpDiff_beq_zero (r m : Byte) : (low8 (cmpDiff r m) == 0) = decide (r = m) := by
  rw [beq_zero_eq_decide_toNat, low8_cmpDiff_toNat, decide_eq_decide, ← BitVec.toNat_inj]
  omega

/-- `Compare(reg, M)` after fetch and resolver writes C, Z and N, and nothing else. -/
theorem comparesTo_compareWith (reg m : Byte) (i : Instr) (s : State) :
    ComparesTo reg m i s (compareWith reg m (issue i s)) := by
  have hbits {k : Nat} (hk : k < 8) := getLsbD_compareFlags reg m s.p hk
  refine ⟨?carry, ?zero, ?negative, sameBits_compareFlags reg m s.p, ⟨rfl, rfl, rfl, rfl⟩, keepsMemory_of_mem_eq rfl,
    retires_of_issue rfl rfl⟩
  case carry => exact (hbits (k := 0) (by decide)).trans (noBorrow_cmpDiff reg m)
  case zero => exact (hbits (k := 1) (by decide)).trans (low8_cmpDiff_beq_zero reg m)
  case negative =>
    rw [← low8_cmpDiff_toNat, ← getLsbD_seven_eq_decide]
    exact hbits (k := 7) (by decide)

/-- Settles O29: CMP, CPX and CPY are one compare, of A, X and Y. -/
theorem comparesSetUnsignedOrder : Obligations.ComparesSetUnsignedOrder := fun _ s =>
  ⟨⟨_, rfl, comparesTo_compareWith _ _ _ s⟩, ⟨_, rfl, comparesTo_compareWith _ _ _ s⟩,
    ⟨_, rfl, comparesTo_compareWith _ _ _ s⟩⟩

end Sys2Proof.Machine
end

section
/-! Shifts and rotates (spec/42_shift_rotate.md): the one write-back as the claims say it, each result as a number, and
the rotates as rotations of one ring of nine bits, C above A. -/

namespace Sys2Proof.Machine

open Sys2Proof.Claims

/-! ### The write-back (R120) -/

/-- `WriteBack` after fetch and resolver writes the result to its operand, and C, Z and N, and nothing else. -/
theorem shiftsTo_writeBack (o : RmwOperand) (carry : Bool) (r : Byte) (i : Instr) (s : State) :
    ShiftsTo o r.toNat carry i s (writeBack o carry r (issue i s)) := by
  have hbits {k : Nat} (hk : k < 8) := getLsbD_shiftFlags carry r s.p hk
  unfold ShiftsTo KeepsStatus
  rw [writeBack_p]
  refine ⟨?operand, hbits (k := 0) (by decide), (hbits (k := 1) (by decide)).trans (beq_zero_eq_decide_toNat r),
    (hbits (k := 7) (by decide)).trans (getLsbD_seven_eq_decide r), sameBits_shiftFlags carry r s.p,
    writeBack_x o _ _ _, writeBack_y o _ _ _, writeBack_sp o _ _ _,
    retires_of_issue (writeBack_pc o _ _ _) (writeBack_cycles o _ _ _)⟩
  case operand =>
    cases o with
    | accumulator => exact ⟨rfl, keepsMemory_of_mem_eq rfl⟩
    | mem m =>
      have hea : memAddress m (issue i s) = memAddress m s := memAddress_issue m i s _
      refine ⟨rfl, congrArg BitVec.toNat ((readByte_writeByte _ _ _ r).trans (if_pos hea.symm)), ?_⟩
      rw [← hea]
      exact keepsMemoryBut_writeByte _ _ r

/-! ### The results as numbers (R121 to R124) -/

/-- The bit that a shift to the right moves out says whether the operand is odd. -/
theorem getLsbD_zero_eq_decide (m : Byte) : m.getLsbD 0 = decide (m.toNat % 2 = 1) := Nat.testBit_zero m.toNat

theorem shiftLeft_one_toNat (m : Byte) : (m <<< 1).toNat = 2 * m.toNat % 256 := by
  rw [BitVec.toNat_shiftLeft, Nat.shiftLeft_eq, Nat.mul_comm]

theorem shiftRight_one_toNat (m : Byte) : (m >>> 1).toNat = m.toNat / 2 := BitVec.toNat_ushiftRight m 1

@[simp] theorem getElem_carryLow (c : Bool) (k : Nat) (hk : k < 8) : (carryLow c)[k] = (decide (k = 0) && c) := by
  revert c k
  decide

@[simp] theorem getElem_carryHigh (c : Bool) (k : Nat) (hk : k < 8) : (carryHigh c)[k] = (decide (k = 7) && c) := by
  revert c k
  decide

/-- The old carry enters the bit that the shift to the left emptied. -/
theorem shiftLeft_or_carryLow_toNat (m : Byte) (c : Bool) :
    ((m <<< 1) ||| carryLow c).toNat = 2 * m.toNat % 256 + c.toNat := by
  have hdisjoint : (m <<< 1) &&& carryLow c = 0 := by
    ext k hk
    by_cases h : k = 0 <;> simp [h]
  have hcarry : (carryLow c).toNat = c.toNat := by cases c <;> rfl
  have hc := c.toNat_le
  rw [← BitVec.add_eq_or_of_and_eq_zero _ _ hdisjoint, BitVec.toNat_add, shiftLeft_one_toNat, hcarry]
  omega

/-- The old carry enters the bit that the shift to the right emptied. -/
theorem shiftRight_or_carryHigh_toNat (m : Byte) (c : Bool) :
    ((m >>> 1) ||| carryHigh c).toNat = m.toNat / 2 + 128 * c.toNat := by
  have hdisjoint : (m >>> 1) &&& carryHigh c = 0 := by
    ext k hk
    by_cases h : k = 7 <;> simp [h]
  have hcarry : (carryHigh c).toNat = 128 * c.toNat := by cases c <;> rfl
  have hc := c.toNat_le
  rw [← BitVec.add_eq_or_of_and_eq_zero _ _ hdisjoint, BitVec.toNat_add, shiftRight_one_toNat, hcarry]
  omega

/-- Settles O30: each is one write-back (`shiftsTo_writeBack`), whose result and carry are read as numbers. -/
theorem shiftsAndRotatesWriteBack : Obligations.ShiftsAndRotatesWriteBack := by
  intro o s m c
  have hhigh : (rmwValue o s).getLsbD 7 = decide (128 ≤ m) := getLsbD_seven_eq_decide _
  have hlow : (rmwValue o s).getLsbD 0 = decide (m % 2 = 1) := getLsbD_zero_eq_decide _
  refine ⟨⟨_, rfl, ?asl⟩, ⟨_, rfl, ?lsr⟩, ⟨_, rfl, ?rol⟩, ⟨_, rfl, ?ror⟩⟩
  case asl => rw [← hhigh, ← shiftLeft_one_toNat]; exact shiftsTo_writeBack _ _ _ _ _
  case lsr => rw [← hlow, ← shiftRight_one_toNat]; exact shiftsTo_writeBack _ _ _ _ _
  case rol => rw [← hhigh, ← shiftLeft_or_carryLow_toNat]; exact shiftsTo_writeBack _ _ _ _ _
  case ror => rw [← hlow, ← shiftRight_or_carryHigh_toNat]; exact shiftsTo_writeBack _ _ _ _ _

/-! ### The rotates as rotations of nine bits (R123, R124) -/

/-- What a rotate in Accumulator mode turns: A, and C as a ninth bit above it. -/
def carryRing (s : State) : BitVec 9 := BitVec.cons (flag .c s) s.a

/-- The ring holds A and C and loses neither. -/
theorem eq_of_carryRing_eq {s t : State} (h : carryRing t = carryRing s) :
    t.a = s.a ∧ t.p.getLsbD 0 = s.p.getLsbD 0 := by
  have ha := congrArg (BitVec.setWidth 8) h
  have hc := congrArg BitVec.msb h
  rw [carryRing, carryRing, BitVec.setWidth_cons, BitVec.setWidth_cons] at ha
  rw [carryRing, carryRing, BitVec.msb_cons, BitVec.msb_cons] at hc
  exact ⟨ha, hc⟩

/-- A rotate leaves the bit moved out in the ring's highest place, above its result. -/
theorem carryRing_writeBack (carry : Bool) (r : Byte) (s : State) :
    carryRing (writeBack .accumulator carry r s) = BitVec.cons carry r :=
  congrArg (BitVec.cons · r) (getLsbD_shiftFlags carry r s.p (i := 0) (by decide))

/-- Every bit of the ring moves one place up, the highest to the lowest. -/
theorem cons_shiftLeft_or_carryLow (m : Byte) (c : Bool) :
    BitVec.cons (m.getLsbD 7) ((m <<< 1) ||| carryLow c) = (BitVec.cons c m).rotateLeft 1 := by
  ext k hk
  by_cases h0 : k = 0
  · simp [BitVec.getElem_cons, h0]
  · have hback : k - 1 ≠ 8 := by omega
    by_cases h8 : k = 8 <;> simp [BitVec.getElem_cons, h0, h8, hback]

/-- Every bit of the ring moves one place down, the lowest to the highest. -/
theorem cons_shiftRight_or_carryHigh (m : Byte) (c : Bool) :
    BitVec.cons (m.getLsbD 0) ((m >>> 1) ||| carryHigh c) = (BitVec.cons c m).rotateRight 1 := by
  ext k hk
  by_cases h8 : k = 8
  · simp [BitVec.getElem_cons, h8]
  · by_cases h7 : k = 7
    · simp [BitVec.getElem_cons, h7]
    · have hk8 : k < 8 := by omega
      have hup : 1 + k < 8 := by omega
      simp [BitVec.getElem_cons, h7, h8, hk8, hup.ne, BitVec.getLsbD_eq_getElem hup]

theorem carryRing_rol {s t : State} (h : exec (.rol .accumulator) s = .next t) :
    carryRing t = (carryRing s).rotateLeft 1 := by
  cases h
  exact (carryRing_writeBack _ _ _).trans (cons_shiftLeft_or_carryLow s.a (flag .c s))

theorem carryRing_ror {s t : State} (h : exec (.ror .accumulator) s = .next t) :
    carryRing t = (carryRing s).rotateRight 1 := by
  cases h
  exact (carryRing_writeBack _ _ _).trans (cons_shiftRight_or_carryHigh s.a (flag .c s))

theorem rotateLeft_one_rotateLeft (x : BitVec 9) (n : Nat) : (x.rotateLeft 1).rotateLeft n = x.rotateLeft (n + 1) := by
  ext k hk
  simp only [BitVec.getElem_rotateLeft]
  split <;> split <;> split <;> (congr 1; omega)

theorem rotateLeft_one_rotateRight_one (x : BitVec 9) : (x.rotateLeft 1).rotateRight 1 = x := by
  ext k hk
  simp only [BitVec.getElem_rotateLeft, BitVec.getElem_rotateRight]
  split <;> split <;> (congr 1; omega)

/-- Rotating by the width turns full circle. -/
theorem rotateLeft_width {w : Nat} (x : BitVec w) : x.rotateLeft w = x := by
  ext
  simp

theorem times_succ {f : State → Host.Outcome State Fault Refusal} {s t : State} (h : f s = .next t) (n : Nat) :
    times f (n + 1) s = times f n t := by
  rw [times, h]

theorem times_rol (n : Nat) (s : State) :
    ∃ t, times (exec (.rol .accumulator)) n s = .next t ∧ carryRing t = (carryRing s).rotateLeft n := by
  induction n generalizing s with
  | zero => exact ⟨s, rfl, by ext; simp⟩
  | succ n ih =>
    obtain ⟨t, ht⟩ : ∃ t, exec (.rol .accumulator) s = .next t := ⟨_, rfl⟩
    obtain ⟨u, hu, hring⟩ := ih t
    rw [carryRing_rol ht, rotateLeft_one_rotateLeft] at hring
    exact ⟨u, (times_succ ht n).trans hu, hring⟩

/-- Settles O31: ROL and ROR turn the nine bits of C and A by one place, opposite ways. -/
theorem rotatesCycleNineBits : Obligations.RotatesCycleNineBits := by
  refine ⟨fun s => ?nine, fun s t h => ?undo⟩
  case nine =>
    obtain ⟨t, ht, hring⟩ := times_rol 9 s
    exact ⟨t, ht, eq_of_carryRing_eq (hring.trans (rotateLeft_width _))⟩
  case undo =>
    obtain ⟨u, hu⟩ : ∃ u, exec (.ror .accumulator) t = .next u := ⟨_, rfl⟩
    refine ⟨u, hu, eq_of_carryRing_eq ?_⟩
    rw [carryRing_ror hu, carryRing_rol h, rotateLeft_one_rotateRight_one]

end Sys2Proof.Machine
end

section
/-! Increments and decrements (spec/43_incdec.md): one step of a byte as a number, what the store of a result and the
register writes change, and the six instructions assembled from these. -/

namespace Sys2Proof.Machine

open Sys2Proof.Claims

/-! ### One step up or down as a number -/

theorem add_one_toNat (v : Byte) : (v + 1).toNat = (v.toNat + 1) % 256 := BitVec.toNat_add v 1

theorem sub_one_toNat (v : Byte) : (v - 1).toNat = (v.toNat + 255) % 256 := by
  rw [BitVec.toNat_sub, Nat.add_comm]
  rfl

/-! ### What a write with `SetZN` shows -/

theorem showsZN_of_setZN {v p : Byte} {t : State} (h : t.p = setZN v p) : ShowsZN v t :=
  showsZN_of_bits ((congrArg (·.getLsbD 1) h).trans (getLsbD_setZN v p (by decide)))
    ((congrArg (·.getLsbD 7) h).trans (getLsbD_setZN v p (by decide)))

/-- `X <- v; SetZN(X)` after fetch and resolver writes X, Z and N, and nothing else. -/
theorem writesX_putX (v : Byte) (i : Instr) (s : State) : WritesX v i s (putX v (issue i s)) :=
  ⟨rfl, showsZN_of_setZN rfl, sameBits_setZN v s.p, rfl, rfl, rfl, keepsMemory_of_mem_eq rfl, retires_of_issue rfl rfl⟩

/-- `Y <- v; SetZN(Y)` after fetch and resolver writes Y, Z and N, and nothing else. -/
theorem writesY_putY (v : Byte) (i : Instr) (s : State) : WritesY v i s (putY v (issue i s)) :=
  ⟨rfl, showsZN_of_setZN rfl, sameBits_setZN v s.p, rfl, rfl, rfl, keepsMemory_of_mem_eq rfl, retires_of_issue rfl rfl⟩

/-- The instruction stores the number `n` at its operand's effective address, with Z and N of the byte stored, and
writes nothing else: the memory counterpart of the claims' `WritesX`. -/
def StoresWithZN (o : MemOperand) (n : Nat) (i : Instr) (s t : State) : Prop :=
  (readByte t (memAddress o s)).toNat = n ∧ ShowsZN (readByte t (memAddress o s)) t ∧ KeepsStatus [1, 7] s t ∧
    KeepsMemoryBut [memAddress o s] s t ∧ KeepsRegisters s t ∧ Retires i s t

/-- `SetZN(r); MemWrite(ea, 1, r)` after fetch and resolver: the address is the one resolved before PC moved on. -/
theorem storesWithZN_storeResult (o : MemOperand) (r : Byte) (i : Instr) (s : State) :
    StoresWithZN o r.toNat i s (storeResult o r (issue i s)) := by
  have hea : memAddress o (issue i s) = memAddress o s := memAddress_issue o i s _
  have hread : readByte (storeResult o r (issue i s)) (memAddress o s) = r :=
    (readByte_writeByte _ _ _ r).trans (if_pos hea.symm)
  unfold StoresWithZN
  rw [hread]
  refine ⟨rfl, showsZN_of_setZN rfl, sameBits_setZN r s.p, ?elsewhere, ⟨rfl, rfl, rfl, rfl⟩, retires_of_issue rfl rfl⟩
  case elsewhere =>
    rw [← hea]
    exact keepsMemoryBut_writeByte _ _ r

/-! ### The instructions (R130 to R135) -/

/-- Settles O32: each stores the stepped operand value (`storesWithZN_storeResult`), read as a number. -/
theorem memoryIncrementAndDecrement : Obligations.MemoryIncrementAndDecrement := by
  intro o s
  refine ⟨⟨_, rfl, ?inc⟩, ⟨_, rfl, ?dec⟩⟩
  case inc => rw [← add_one_toNat]; exact storesWithZN_storeResult _ _ _ _
  case dec => rw [← sub_one_toNat]; exact storesWithZN_storeResult _ _ _ _

/-- Settles O33: each is `putX` or `putY` of the stepped register. -/
theorem registerIncrementAndDecrement : Obligations.RegisterIncrementAndDecrement := fun s =>
  ⟨⟨_, rfl, add_one_toNat s.x, writesX_putX _ _ s⟩, ⟨_, rfl, sub_one_toNat s.x, writesX_putX _ _ s⟩,
    ⟨_, rfl, add_one_toNat s.y, writesY_putY _ _ s⟩, ⟨_, rfl, sub_one_toNat s.y, writesY_putY _ _ s⟩⟩

end Sys2Proof.Machine
end

section
/-! Loads, stores and transfers (spec/44_load_store_transfer.md): a store as the claims say it, and the twelve
instructions assembled from it and from the register writes. -/

namespace Sys2Proof.Machine

open Sys2Proof.Claims

/-- `MemWrite(ea, 1, v)` after fetch and resolver stores `v` at the effective address, and nothing else. -/
theorem storesAt_writeByte (o : MemOperand) (v : Byte) (i : Instr) (s : State) :
    StoresAt o v i s (writeByte (issue i s) (memAddress o s) v) :=
  ⟨(readByte_writeByte _ _ _ v).trans (if_pos rfl), keepsMemoryBut_writeByte (issue i s) _ v, ⟨rfl, rfl, rfl, rfl⟩, rfl,
    retires_of_issue rfl rfl⟩

/-- Settles O35: STA, STX and STY are one store, of A, X and Y. -/
theorem storesWriteTheEffectiveAddressOnly : Obligations.StoresWriteTheEffectiveAddressOnly := fun o s =>
  ⟨⟨_, rfl, storesAt_writeByte o s.a _ s⟩, ⟨_, rfl, storesAt_writeByte o s.x _ s⟩,
    ⟨_, rfl, storesAt_writeByte o s.y _ s⟩⟩

/-- Settles O34: each is `putA`, `putX` or `putY` of the operand value. -/
theorem loadsTakeTheOperand : Obligations.LoadsTakeTheOperand := fun o s =>
  ⟨⟨_, rfl, writesA_putA (readValue o s) _ s⟩, ⟨_, rfl, writesX_putX (readValue o s) _ s⟩,
    ⟨_, rfl, writesY_putY (readValue o s) _ s⟩⟩

/-- Settles O36: five transfers are `putA`, `putX` or `putY` of their source; TXS writes SP alone (R151). -/
theorem transfersCopyTheirSource : Obligations.TransfersCopyTheirSource := by
  intro s
  refine ⟨⟨_, rfl, writesX_putX s.a _ s⟩, ⟨_, rfl, writesY_putY s.a _ s⟩, ⟨_, rfl, writesX_putX s.sp _ s⟩,
    ⟨_, rfl, writesA_putA s.x _ s⟩, ⟨_, rfl, writesA_putA s.y _ s⟩, ⟨_, rfl, ?txs⟩⟩
  case txs => exact ⟨rfl, rfl, rfl, rfl, rfl, keepsMemory_of_mem_eq rfl, retires_of_issue rfl rfl⟩

end Sys2Proof.Machine
end

section
/-! Flags and no-operations (spec/45_flags_nop.md): the write of one flag as the claims say it, the seven instructions
assembled from it, and NOP. -/

namespace Sys2Proof.Machine

open Sys2Proof.Claims

/-- A write of one flag after fetch and resolver writes that flag's bit of P, and nothing else. -/
theorem writesStatusBit_putFlag (f : Flag) (on : Bool) (i : Instr) (s : State) :
    WritesStatusBit (flagBit f) on i s (putFlag f on (issue i s)) :=
  ⟨(getLsbD_setFlag f on _ (flagBit_lt f)).trans (if_pos rfl),
    (SameBits.refl _ s.p).write (List.mem_singleton_self _) on, ⟨rfl, rfl, rfl, rfl⟩, keepsMemory_of_mem_eq rfl,
    retires_of_issue rfl rfl⟩

/-- Settles O37: each is one `putFlag`, of the flag R160 to R166 name. -/
theorem flagInstructionsWriteTheNamedFlagOnly : Obligations.FlagInstructionsWriteTheNamedFlagOnly := fun s =>
  ⟨⟨_, rfl, writesStatusBit_putFlag .c false _ s⟩, ⟨_, rfl, writesStatusBit_putFlag .d false _ s⟩,
    ⟨_, rfl, writesStatusBit_putFlag .i false _ s⟩, ⟨_, rfl, writesStatusBit_putFlag .v false _ s⟩,
    ⟨_, rfl, writesStatusBit_putFlag .c true _ s⟩, ⟨_, rfl, writesStatusBit_putFlag .d true _ s⟩,
    ⟨_, rfl, writesStatusBit_putFlag .i true _ s⟩⟩

/-- Fetch and resolver of a NOP move PC one byte and charge the opcode fetch: Implicit takes no operand byte, and
resolving it and the NOP itself cost nothing (R167). -/
theorem issue_nop (s : State) :
    issue .nop s = { s with pc := BitVec.ofNat 16 (s.pc.toNat + 1), cycles := s.cycles + fetchCost } := by
  have hpc : s.pc + BitVec.ofNat 16 (instrLength .nop) = BitVec.ofNat 16 (s.pc.toNat + 1) := by
    rw [BitVec.ofNat_add, BitVec.ofNat_toNat, BitVec.setWidth_eq]
    rfl
  have hcost : instrCost .nop s = fetchCost := rfl
  rw [issue, hpc, hcost]

/-- Settles O38: NOP is its fetch alone (`issue_nop`), and an unassigned byte's length and cost do not depend on the
byte it keeps (R168). -/
theorem nopAndUnassignedBytesOnlyAdvance : Obligations.NopAndUnassignedBytesOnlyAdvance := fun s _ =>
  ⟨congrArg Host.Outcome.next (issue_nop s), rfl⟩

end Sys2Proof.Machine
end

section
/-! The stack (spec/46_stack.md): a push as the claims say it, what a pop brings back, and that SP and the stored bytes
wrap inside the page $0100 to $01FF. -/

namespace Sys2Proof.Machine

open Sys2Proof.Claims

/-! ### The four instructions (R178 to R181) -/

/-- `Push(v)` after fetch and resolver stores `v` at the top of the stack, moves SP, and writes nothing else. -/
theorem pushes_push (v : Byte) (i : Instr) (s : State) : Pushes v i s (push v (issue i s)) := by
  refine ⟨?stored, keepsMemoryBut_push v (issue i s), sub_one_toNat s.sp, rfl, rfl, rfl, rfl, retires_of_issue rfl rfl⟩
  case stored => rw [stackCell_sp, readByte_push, issue_sp, if_pos rfl]

/-- Settles O39: each is one push, of A and of P. -/
theorem pushInstructionsStoreBelowTheTop : Obligations.PushInstructionsStoreBelowTheTop := fun s =>
  ⟨⟨_, rfl, pushes_push s.a _ s⟩, ⟨_, rfl, pushes_push s.p _ s⟩⟩

/-- Settles O40: A and its flags are `putA` of the byte popped, SP is `popState`'s. -/
theorem plaPopsIntoA : Obligations.PlaPopsIntoA := by
  intro s
  rw [topByte_eq_popByte]
  exact ⟨_, rfl, rfl, showsZN_of_setZN rfl, sameBits_setZN (popByte s) s.p, add_one_toNat s.sp, rfl, rfl,
    keepsMemory_of_mem_eq rfl, retires_of_issue rfl rfl⟩

/-- Settles O41: P is the byte popped, through the mask that clears bit 5 (`getLsbD_loadStatus`). -/
theorem plpPopsIntoStatus : Obligations.PlpPopsIntoStatus := by
  intro s
  refine ⟨_, rfl, fun k hk => ?status, add_one_toNat s.sp, rfl, rfl, rfl, keepsMemory_of_mem_eq rfl,
    retires_of_issue rfl rfl⟩
  case status =>
    rw [topByte_eq_popByte, getLsbD_loadStatus _ hk]
    by_cases h5 : k = 5 <;> simp [h5]

/-! ### Pops after pushes (R182) -/

/-- A push and a pop leave the byte below as the next to be popped: the two cells differ for every SP. -/
theorem popByte_popState_push (w : Byte) (s : State) : popByte (popState (push w s)) = popByte s := by
  have hbelow : stackAddr (s.sp + 1) ≠ stackAddr s.sp := fun h => by
    have := stackAddr_inj.mp h
    bv_omega
  rw [popByte, popState_push_sp]
  exact (readByte_push w s _).trans (if_neg hbelow)

/-- Settles O42: a pop undoes the latest push (`popByte_push`, `popState_push_sp`) and uncovers the one before it
(`popByte_popState_push`); PLA pops what PHA pushed, whatever A holds. -/
theorem popUndoesPush : Obligations.PopUndoesPush := by
  refine ⟨fun v w s => ⟨popByte_push v s, popState_push_sp v s, popByte_push w _, ?reverse, ?sp⟩, fun s t q h => ?pla⟩
  case reverse => rw [popByte_popState_push, popByte_push]
  case sp => rw [popState_sp, popState_push_sp, push_sp, BitVec.sub_add_cancel]
  case pla =>
    cases h
    exact ⟨_, rfl, popByte_push s.a (issue .pha s), popState_push_sp s.a (issue .pha s)⟩

/-! ### The wrap (R177) -/

theorem pushAll_sp (vs : List Byte) (s : State) : (pushAll vs s).sp = s.sp - BitVec.ofNat 8 vs.length := by
  induction vs generalizing s with
  | nil => exact (BitVec.sub_zero s.sp).symm
  | cons v vs ih =>
    rw [pushAll, ih, push_sp, List.length_cons, BitVec.ofNat_add]
    bv_omega

/-- As many pushes as the page has cells bring SP full circle. -/
theorem pushAll_sp_of_length_256 {vs : List Byte} (hvs : vs.length = 256) (s : State) :
    (pushAll vs s).sp = s.sp := by
  rw [pushAll_sp, hvs]
  exact BitVec.sub_zero s.sp

/-- Every stack location lies in the stack page (R46). -/
theorem stackAddr_mem_page (sp : Byte) : 0x0100 ≤ (stackAddr sp).toNat ∧ (stackAddr sp).toNat ≤ 0x01FF := by
  have hsp := sp.isLt
  rw [stackAddr_toNat]
  omega

theorem stackCell_ne_of_outside_page {addr : Word} (haddr : addr.toNat < 0x0100 ∨ 0x01FF < addr.toNat) (n : Nat) :
    addr ≠ stackCell n := by
  rintro rfl
  rw [stackCell_eq_stackAddr] at haddr
  obtain ⟨hlow, hhigh⟩ := stackAddr_mem_page (BitVec.ofNat 8 n)
  omega

/-- PHA, PHP and JSR store in the stack page only. -/
theorem notMem_storedAddresses_of_outside_page {i : Instr} (hi : i ∈ [.pha, .php] ∨ ∃ w, i = .jsr w) (s : State)
    {addr : Word} (haddr : addr.toNat < 0x0100 ∨ 0x01FF < addr.toNat) : addr ∉ storedAddresses i s := by
  have hne := stackCell_ne_of_outside_page haddr
  obtain hi | ⟨w, rfl⟩ := hi
  · obtain rfl | rfl := List.mem_pair.mp hi <;> exact mt List.mem_singleton.mp (hne _)
  · exact mt List.mem_pair.mp (not_or.mpr ⟨hne _, hne _⟩)

/-- Settles O43: SP wraps as a byte does, so 256 pushes bring it back (`pushAll_sp_of_length_256`), and what the push
instructions store to (O16) lies in the page. -/
theorem stackWrapsInsideItsPage : Obligations.StackWrapsInsideItsPage := by
  refine ⟨fun v s hsp => ⟨?pushSp, ?pushCell⟩, fun s hsp => ⟨?popSp, ?popCell⟩, stackAddr_mem_page,
    fun vs v s hvs => ⟨pushAll_sp_of_length_256 hvs s, ?overwrites⟩, fun i s t addr hi h haddr => ?outside⟩
  case pushSp => rw [push_sp, hsp]; rfl
  case pushCell => rw [readByte_push, hsp, if_pos (by decide)]
  case popSp => rw [popState_sp, hsp]; rfl
  case popCell => rw [popByte, hsp]; rfl
  case overwrites => rw [readByte_push, pushAll_sp_of_length_256 hvs, stackCell_sp, if_pos rfl]
  case outside =>
    exact memoryChangesOnlyWhereStored i s t h addr (notMem_storedAddresses_of_outside_page hi s haddr)

end Sys2Proof.Machine
end

section
/-! Control transfer (spec/47_control_flow.md): what the fetch of an instruction without a page cross leaves, branches
as the claims say them, and jumps, call and returns with the words they push and pop as numbers. -/

namespace Sys2Proof.Machine

open Sys2Proof.Claims

/-! ### Words, and what is issued -/

theorem ofNat_toNat_add {w : Nat} (x : BitVec w) (n : Nat) :
    BitVec.ofNat w (x.toNat + n) = x + BitVec.ofNat w n := by
  rw [BitVec.ofNat_add, BitVec.ofNat_toNat, BitVec.setWidth_eq]

theorem highByte_toNat (w : Word) : (highByte w).toNat = w.toNat / 256 := by
  have hw := w.isLt
  rw [highByte, BitVec.extractLsb'_toNat, Nat.shiftRight_eq_div_pow]
  omega

theorem lowByte_toNat (w : Word) : (lowByte w).toNat = w.toNat % 256 := BitVec.extractLsb'_toNat 0 8 w

/-- Fetch and resolver of an operand without a page cross, the parts of the charge (R250) one by one. -/
theorem issue_of_no_penalty {i : Instr} {s : State} (h : operandPenalty i.operand s = 0) (c : Costs) :
    issue i s c =
      { s with
        pc := BitVec.ofNat 16 (s.pc.toNat + instrLength i)
        cycles := s.cycles + fetchCost c + modeCost i.mode + ownCost i c } := by
  simp only [issue, instrCost, h, ofNat_toNat_add, Nat.add_zero, Nat.add_assoc]

/-! ### Branches (R87, R190 to R198) -/

/-- A displacement byte is a signed number, added mod 65536 (R87). -/
theorem ofNat_add_sext16 (n : Nat) (off : Byte) : BitVec.ofNat 16 n + sext16 off = BitVec.ofInt 16 (n + off.toInt) := by
  rw [BitVec.ofInt_add, BitVec.ofInt_natCast]
  rfl

/-- `Branch` after fetch and resolver is the claims' `afterBranch` (R190). -/
theorem branch_issue_eq_afterBranch {i : Instr} {off : Byte} (hi : i.operand = .relative off) (taken : Bool)
    (s : State) : branch taken off (issue i s) = afterBranch taken i off s := by
  have hmode : i.mode = .relative := congrArg Operand.mode hi
  have hpenalty : operandPenalty i.operand s = 0 := by rw [hi]; rfl
  rw [issue_of_no_penalty hpenalty, instrLength, hmode]
  cases taken with
  | false => rfl
  | true =>
    rw [branch_spec, if_pos rfl, pageCross_toNat_eq_crossing, ofNat_add_sext16]
    rfl

/-- An instruction with a Relative operand branches on the condition that `setsPc` lists for it. -/
theorem exec_of_relative {i : Instr} {off : Byte} (hi : i.operand = .relative off) (s : State) :
    exec i s = .next (afterBranch (setsPc i s) i off s) := by
  rw [← execWith_defaultCosts, execWith_of_relative hi, branch_issue_eq_afterBranch hi]

/-- Settles O44: each is one `Branch`, on the status bit R191 to R198 name. -/
theorem branchesAddASignedDisplacement : Obligations.BranchesAddASignedDisplacement := fun _ s =>
  ⟨exec_of_relative rfl s, exec_of_relative rfl s, exec_of_relative rfl s, exec_of_relative rfl s,
    exec_of_relative rfl s, exec_of_relative rfl s, exec_of_relative rfl s, exec_of_relative rfl s⟩

/-! ### JSR, and RTS straight after it (R200, R201) -/

/-- The address of a JSR's last byte, which it pushes. -/
theorem issue_jsr_pc_sub_one (w : Word) (s : State) : (issue (.jsr w) s).pc - 1 = s.pc + 2 := by
  have hlen : instrLength (.jsr w) = 3 := rfl
  rw [issue_pc, hlen]
  bv_omega

theorem readByte_pushWord_high (w : Word) (s : State) : readByte (pushWord w s) (stackAddr s.sp) = highByte w := by
  have hne : stackAddr s.sp ≠ stackAddr (s.sp - 1) := fun h => by
    have := stackAddr_inj.mp h
    bv_omega
  rw [pushWord, readByte_push, push_sp, if_neg hne, readByte_push, if_pos rfl]

theorem readByte_pushWord_low (w : Word) (s : State) :
    readByte (pushWord w s) (stackAddr (s.sp - 1)) = lowByte w := by
  rw [pushWord, readByte_push, push_sp, if_pos rfl]

/-- Two pushes move SP down by 2, mod 256 (R175). -/
theorem pushWord_sp_toNat (w : Word) (s : State) : (pushWord w s).sp.toNat = (s.sp.toNat + 254) % 256 := by
  rw [pushWord_sp, sub_one_toNat, sub_one_toNat]
  omega

/-- Settles O46: the two pushes store the bytes of the return address (`readByte_pushWord_high`,
`readByte_pushWord_low`). -/
theorem jsrPushesTheReturnAddress : Obligations.JsrPushesTheReturnAddress := by
  intro w s
  have hret : ((issue (.jsr w) s).pc - 1).toNat = (s.pc.toNat + 2) % 65536 := by
    rw [issue_jsr_pc_sub_one, BitVec.toNat_add]
    rfl
  refine ⟨_, rfl, rfl, ?high, ?low, keepsMemoryBut_pushWord _ (issue (.jsr w) s),
    pushWord_sp_toNat _ (issue (.jsr w) s), rfl, rfl, rfl, rfl, rfl⟩
  case high =>
    rw [← hret, ← highByte_toNat, stackCell_sp]
    exact congrArg BitVec.toNat (readByte_pushWord_high _ (issue (.jsr w) s))
  case low =>
    rw [← hret, ← lowByte_toNat, stackCell_sp_add_255]
    exact congrArg BitVec.toNat (readByte_pushWord_low _ (issue (.jsr w) s))

/-- Settles O49: RTS pops the word that JSR pushed (`popWord_pushWord`), the address of JSR's last byte. -/
theorem rtsUndoesJsr : Obligations.RtsUndoesJsr := by
  intro w s t h
  cases h
  refine ⟨_, rfl, ?pc, ⟨rfl, rfl, rfl, ?sp⟩, rfl, keepsMemory_of_mem_eq rfl⟩
  case pc =>
    have hafter : s.pc + 2 + 1 = s.pc + 3 := BitVec.add_assoc s.pc 2 1
    show (popWord (pushWord ((issue (.jsr w) s).pc - 1) (issue (.jsr w) s)) + 1).toNat = _
    rw [popWord_pushWord, issue_jsr_pc_sub_one, hafter]
    exact BitVec.toNat_add s.pc 3
  case sp =>
    show s.sp - 1 - 1 + 1 + 1 = s.sp
    rw [BitVec.sub_add_cancel, BitVec.sub_add_cancel]

/-! ### JMP (R199) -/

/-- Settles O45: Absolute goes to the operand word itself, Indirect to the word `read16` finds there, its high byte at
the next address (D6, log entry 9). -/
theorem jmpSetsPcToItsTarget : Obligations.JmpSetsPcToItsTarget := by
  intro w s
  refine ⟨?absolute, _, rfl, ?target, ?cost, ⟨rfl, rfl, rfl, rfl⟩, rfl, keepsMemory_of_mem_eq rfl⟩
  case absolute =>
    rw [exec, execJmp, issue_of_no_penalty rfl]
    rfl
  case target =>
    rw [ofNat_toNat_add]
    exact wordOf_toNat (readByte s w) (readByte s (w + 1))
  case cost => exact congrArg State.cycles (issue_of_no_penalty (i := .jmp (.indirect w)) (s := s) rfl defaultCosts)

/-! ### RTS and RTI (R201, R202, R224) -/

/-- The stack cell `n + 1` above SP is the one `n` above SP after a pop. -/
theorem stackCell_popState_sp_add (s : State) (n : Nat) :
    stackCell ((popState s).sp.toNat + n) = stackCell (s.sp.toNat + (1 + n)) := by
  rw [stackCell_eq_stackAddr, stackCell_eq_stackAddr, ofNat_toNat_add, ofNat_toNat_add, popState_sp, BitVec.ofNat_add,
    BitVec.add_assoc]
  rfl

/-- Two pops return a little-endian word, SP wrapping inside the stack page (R176, R177). -/
theorem popWord_toNat (s : State) :
    (popWord s).toNat = (readByte s (stackCell (s.sp.toNat + 1))).toNat +
      256 * (readByte s (stackCell (s.sp.toNat + 2))).toNat := by
  have hsecond : stackCell ((popState s).sp.toNat + 1) = stackCell (s.sp.toNat + 2) := stackCell_popState_sp_add s 1
  rw [popWord, wordOf_toNat, ← topByte_eq_popByte, ← topByte_eq_popByte, topByte, topByte, hsecond]
  rfl

/-- Settles O47: PC is the popped word as `popWord_toNat` reads it, and 1. -/
theorem rtsContinuesPastThePoppedWord : Obligations.RtsContinuesPastThePoppedWord := by
  intro s
  refine ⟨_, rfl, ?pc, ?sp, rfl, rfl, rfl, rfl, keepsMemory_of_mem_eq rfl, rfl⟩
  case pc =>
    rw [← popWord_toNat]
    exact BitVec.toNat_add (popWord s) 1
  case sp =>
    simp only [popState_sp, issue_sp, add_one_toNat]
    omega

/-- The status byte that PLP and RTI load is the popped one with bit 5 cleared (D5, log entry 8). -/
theorem getLsbD_loadStatus_popByte (s : State) {k : Nat} (hk : k < 8) :
    (loadStatus (popByte s)).getLsbD k = (decide (k ≠ 5) && (topByte s).getLsbD k) := by
  rw [getLsbD_loadStatus _ hk, topByte_eq_popByte]
  by_cases h5 : k = 5 <;> simp [h5]

/-- Settles O48: the status byte is popped first, so the word is that of `popWord_toNat` one cell further up. -/
theorem rtiPopsStatusThenPc : Obligations.RtiPopsStatusThenPc := by
  intro s
  refine ⟨_, rfl, fun _ => getLsbD_loadStatus_popByte s, ?pc, ?sp, rfl, rfl, rfl, keepsMemory_of_mem_eq rfl, rfl⟩
  case pc =>
    have hword := popWord_toNat (popState s)
    rw [stackCell_popState_sp_add, stackCell_popState_sp_add] at hword
    exact hword
  case sp =>
    simp only [popState_sp, issue_sp, add_one_toNat]
    omega

end Sys2Proof.Machine
end

section
/-! BRK and the run loop (spec/48_brk_run_loop.md): BRK writes B alone, and the loop ends at the first step after which
B is 1, by a recursion on the number of steps that the claim and the loop share. -/

namespace Sys2Proof.Machine

open Sys2Proof.Claims

/-! ### BRK (R210) -/

theorem issue_brk (s : State) (c : Costs) :
    issue .brk s c =
      { s with pc := BitVec.ofNat 16 (s.pc.toNat + 1), cycles := s.cycles + fetchCost c + 6 } :=
  issue_of_no_penalty rfl c

/-- Settles O50: BRK is `putFlag` of B on what `issue_brk` leaves, and the mask of B is `$10`. -/
theorem brkSetsTheBreakBitOnly : Obligations.BrkSetsTheBreakBitOnly := by
  intro s
  rw [exec, execBrk, issue_brk]
  rfl

/-! ### The run loop (R211 to R215) -/

/-- The run from `s` has B at 1 for the first time after step `k`, and `t` is the state then; B in `s` itself is not
looked at (R213, D12; log entry 5). -/
def FirstBreak (c : Costs) (k : Nat) (s t : State) : Prop :=
  times (stepWith c) k s = .next t ∧ t.p.getLsbD 4 = true ∧
    ∀ (j : Nat) (u : State), 0 < j → j < k → times (stepWith c) j s = .next u → u.p.getLsbD 4 = false

section
variable {c : Costs} {s t u : State} (hstep : stepWith c s = .next u)
include hstep

/-- Where B is 1 after the first step, that step is the first break. -/
theorem firstBreak_of_break (hu : u.p.getLsbD 4 = true) (k : Nat) :
    FirstBreak c (k + 1) s t ↔ k = 0 ∧ u = t := by
  have hone : times (stepWith c) 1 s = .next u := times_succ hstep 0
  constructor
  · rintro ⟨hk, -, hbefore⟩
    obtain rfl : k = 0 := by
      by_contra hpos
      exact Bool.false_ne_true ((hbefore 1 u (by omega) (by omega) hone).symm.trans hu)
    rw [hone] at hk
    exact ⟨rfl, Host.Outcome.next.inj hk⟩
  · rintro ⟨rfl, rfl⟩
    exact ⟨hone, hu, fun j _ hpos hlt => absurd hlt (by omega)⟩

/-- Where B is 0 after the first step, the first break is that of the run from there, which takes a step at least. -/
theorem firstBreak_of_no_break (hu : u.p.getLsbD 4 = false) (k : Nat) :
    FirstBreak c (k + 1) s t ↔ 0 < k ∧ FirstBreak c k u t := by
  have hsucc (j : Nat) : times (stepWith c) (j + 1) s = times (stepWith c) j u := times_succ hstep j
  constructor
  · rintro ⟨hk, ht, hbefore⟩
    rw [hsucc] at hk
    refine ⟨Nat.pos_of_ne_zero ?_, hk, ht, fun j v hj hjk hv => ?_⟩
    · rintro rfl
      obtain rfl : u = t := Host.Outcome.next.inj hk
      exact Bool.false_ne_true (hu.symm.trans ht)
    · exact hbefore (j + 1) v (by omega) (by omega) ((hsucc j).trans hv)
  · rintro ⟨-, hk, ht, hbefore⟩
    refine ⟨(hsucc k).trans hk, ht, fun j v hj hjk hv => ?_⟩
    match j with
    | 1 =>
      obtain rfl : u = v := Host.Outcome.next.inj ((hsucc 0).symm.trans hv)
      exact hu
    | j + 2 => exact hbefore (j + 1) v (by omega) (by omega) ((hsucc (j + 1)).symm.trans hv)

end

/-- The run loop and `FirstBreak` look at the first step alike: it ends the run where it leaves B at 1, and the rest of
the run has one step of fuel less. -/
theorem runLoop_eq_some_iff (c : Costs) (fuel : Nat) (s t : State) :
    runLoop fuel s c = some t ↔ ∃ k, 0 < k ∧ k ≤ fuel ∧ FirstBreak c k s t := by
  induction fuel generalizing s with
  | zero =>
    constructor
    · exact nofun
    · rintro ⟨k, hpos, hle, -⟩
      omega
  | succ fuel ih =>
    obtain ⟨u, hu⟩ := execWith_completes c (fetchInstr s) s
    rw [runLoop_succ hu]
    cases hb : halted u with
    | true =>
      rw [if_pos rfl, Option.some_inj]
      constructor
      · exact fun h => ⟨1, Nat.one_pos, by omega, (firstBreak_of_break hu hb 0).mpr ⟨rfl, h⟩⟩
      · exact fun ⟨k + 1, _, _, h⟩ => ((firstBreak_of_break hu hb k).mp h).2
    | false =>
      rw [if_neg Bool.false_ne_true, ih]
      constructor
      · rintro ⟨k, hpos, hle, h⟩
        exact ⟨k + 1, k.succ_pos, by omega, (firstBreak_of_no_break hu hb k).mpr ⟨hpos, h⟩⟩
      · intro ⟨k + 1, _, hle, h⟩
        obtain ⟨hpos, h⟩ := (firstBreak_of_no_break hu hb k).mp h
        exact ⟨k, hpos, by omega, h⟩

/-- Settles O51: the claim is `runLoop_eq_some_iff`, with `FirstBreak` written out. -/
theorem runEndsAtTheFirstStepThatLeavesBSet : Obligations.RunEndsAtTheFirstStepThatLeavesBSet :=
  ⟨fun s => (stepWith_defaultCosts s).symm, runLoop_eq_some_iff⟩

/-- The byte `$00` is a BRK, whatever follows it (R65, R210). -/
theorem stepWith_of_break_byte {s : State} (h : readByte s s.pc = 0x00) (c : Costs) :
    stepWith c s = .next (putFlag .b true (issue .brk s c)) := by
  have hfetch : fetchInstr s = .brk := by
    rw [fetchInstr, h]
    rfl
  rw [stepWith, hfetch]
  rfl

/-- Settles O52: the step is the BRK (`stepWith_of_break_byte`), and B, which it sets, ends the run. -/
theorem runEndsAtABreakByte : Obligations.RunEndsAtABreakByte := by
  intro c fuel s h
  have hb : (setFlag .b true s.p).getLsbD 4 = true := getLsbD_setFlag .b true s.p (by decide)
  refine ⟨putFlag .b true (issue .brk s c), ?ends, ?pc, ⟨rfl, rfl, rfl, rfl⟩, keepsMemory_of_mem_eq rfl, hb,
    (SameBits.refl _ s.p).write (by decide) true, ?cycles⟩
  case ends => exact (runLoop_succ (stepWith_of_break_byte h c) fuel).trans (if_pos hb)
  case pc => rw [putFlag_pc, issue_brk, BitVec.toNat_ofNat]
  case cycles => exact congrArg State.cycles (issue_brk s c)

end Sys2Proof.Machine
end

section
/-! Every instruction and every step completes (spec/60_exceptions.md R220), what each is charged at the default
parameters, and the reset (spec/70_reset_and_hazards.md R240 to R242, R250 to R252). -/

namespace Sys2Proof.Machine

open Sys2Proof.Claims

theorem exec_completes (i : Instr) (s : State) : ∃ t, exec i s = .next t := by
  rw [← execWith_defaultCosts]
  exact execWith_completes defaultCosts i s

/-- Settles O6: a step is an instruction's meaning, and every instruction has one (`exec_completes`). -/
theorem everyStateHasANextState : Obligations.EveryStateHasANextState :=
  ⟨fun s => exec_completes (fetchInstr s) s, exec_completes⟩

/-! ### The listed totals (R251, R252; D2, D3, log entries 2 and 3) -/

/-- A mode's total is one fetch more than what its resolver charges (R252). -/
theorem totalOfMode_eq (m : Mode) : totalOfMode m = 1 + modeCost m := by cases m <;> rfl

theorem instrCost_of_ownCost_eq_zero {i : Instr} (h : ownCost i = 0) (s : State) :
    instrCost i s = totalOfMode i.mode + penaltyOf i.operand s := by
  rw [instrCost, h, penaltyOf_eq_operandPenalty, totalOfMode_eq]
  rfl

/-- The listed total is R250's sum at the default parameters: the instructions that R251 gives an own cost are listed
one by one, the others by their mode. -/
theorem instrCost_eq_listedTotal (i : Instr) (s : State) : instrCost i s = listedTotal i s := by
  cases i with
  | adc o | sbc o | and o | ora o | eor o | cmp o | cpx o | cpy o | lda o | ldx o | ldy o =>
    exact instrCost_of_ownCost_eq_zero rfl s
  | asl o | lsr o | rol o | ror o => exact instrCost_of_ownCost_eq_zero rfl s
  | bit m | inc m | dec m | sta m | stx m | sty m => exact instrCost_of_ownCost_eq_zero rfl s
  | jmp o => exact instrCost_of_ownCost_eq_zero rfl s
  | _ => rfl

/-- The mode of a branch makes its charge 3 before the extra cycles of a taken one (R190). -/
theorem instrCost_of_relative {i : Instr} {off : Byte} (hi : i.operand = .relative off) (s : State) :
    instrCost i s = 3 := by
  cases i with
  | bcc d | bcs d | beq d | bne d | bmi d | bpl d | bvc d | bvs d => rfl
  | adc o | sbc o | and o | ora o | eor o | cmp o | cpx o | cpy o | lda o | ldx o | ldy o =>
    exact absurd hi (readOperand_ne_relative o off)
  | asl o | lsr o | rol o | ror o => exact absurd hi (rmwOperand_ne_relative o off)
  | jmp o => exact absurd hi (jumpOperand_ne_relative o off)
  | _ => cases hi

/-- Settles O17: an instruction charges R250's sum (`exec_cycles`), which is 3 and the taken branch's extra cycles for a
branch, and the listed total for every other. -/
theorem everyInstructionChargesItsListedTotal : Obligations.EveryInstructionChargesItsListedTotal := by
  intro i s t h
  rw [exec_cycles h]
  congr 1
  split
  next off hi =>
    rw [chargeOf_of_relative hi, instrCost_of_relative hi]
    cases setsPc i s with
    | true => simp only [if_true]; omega
    | false => rfl
  next hi => rw [chargeOf_of_not_relative hi, instrCost_eq_listedTotal]

/-! ### Reset (R240 to R242, R20) -/

theorem resetCore_inv {s : State} (h : s.mem.wf = true) : (resetCore s).Inv := ⟨BitVec.getLsbD_zero, h⟩

/-- Settles O9: the first state is a reset of the created one (`reset_eq_resetCore_created`), whose memory is empty. -/
theorem resetEstablishesTheInvariant : Obligations.ResetEstablishesTheInvariant :=
  ⟨reset_eq_resetCore_created ▸ resetCore_inv (s := State.created) rfl, fun _ => resetCore_inv⟩

/-- Settles O10: `resetCore` sets each register to its constant, and leaves memory. -/
theorem resetGivesEveryRegisterItsValue : Obligations.ResetGivesEveryRegisterItsValue :=
  ⟨⟨rfl, rfl, rfl, rfl, rfl, rfl, rfl⟩,
    fun s => ⟨resetCore_pc s, resetCore_sp s, resetCore_a s, resetCore_x s, resetCore_y s, resetCore_p s,
      resetCore_cycles s, keepsMemory_of_mem_eq (resetCore_mem s)⟩,
    reset_eq_resetCore_created.symm⟩

end Sys2Proof.Machine
end
